-- ==== Sys2Proof/Word.lean ====
section
/-! DEFINITION. The value types of the block (00_scope.md R12, R14): a byte, a plane word, a cell of the index memory. -/

namespace Sys2Proof

/-- 8 bits: a cell of PLN, STR, RPB, CPB, a control byte, a command byte (R14). -/
abbrev Byte := BitVec 8

/-- 16 bits: the bitplane word, which exists only in the layout of PLN (R14, R55). -/
abbrev PlaneWord := BitVec 16

/-- 4 bits: a cell of the index memory IDX (R14, R31). -/
abbrev IndexCell := BitVec 4

end Sys2Proof
end

