-- ==== Sys2Proof/Syntax.lean ====
section
/-! DEFINITION. The instruction set: the eight rows of spec/opcode_table.json (30_encoding.md R90). -/

namespace Sys2Proof

/-- The two opcodes of an RLE stream and the six host commands (R90). The stream opcodes are written as in R91, with
their count and their bytes; a command has no operand field (R88). -/
inductive Instr where
  /-- COPY, `0mmmmmmm lit[0] … lit[m]`: the m + 1 literal bytes, in output order (R81, R122). -/
  | copy (lits : List Byte)
  /-- FILL, `1qqqqqqq val`: the repeat count n = 129 − q = 257 − c, and the byte to repeat (R82, R123). -/
  | fill (n : Nat) (val : Byte)
  /-- PACK, CMD = 0x01: IDX to PLN (R102). -/
  | pack
  /-- UNPACK, CMD = 0x02: PLN to IDX (R106). -/
  | unpack
  /-- ENCROW, CMD = 0x03: RPB to CPB, one row-plane (R149). -/
  | encrow
  /-- DECROW, CMD = 0x04: CPB to RPB, one row-plane (R127). -/
  | decrow
  /-- ENCFRAME, CMD = 0x05: PLN to STR, a whole frame (R165). -/
  | encframe
  /-- DECFRAME, CMD = 0x06: STR to PLN, a whole frame (R169). -/
  | decframe
deriving DecidableEq, Repr

end Sys2Proof
end

