-- ==== Sys2Proof/WellFormed.lean ====
section
/-! DEFINITION. Which instruction terms an encoding exists for (30_encoding.md R81, R82, R86). -/

namespace Sys2Proof

/-- A COPY has 1 to 128 literals, a FILL 2 to 129 repeats ("RLE opcode legality", R86); a command has no operand. -/
def Instr.wf : Instr → Bool
  | .copy lits => decide (1 ≤ lits.length) && decide (lits.length ≤ 128)
  | .fill n _ => decide (2 ≤ n) && decide (n ≤ 129)
  | .pack => true
  | .unpack => true
  | .encrow => true
  | .decrow => true
  | .encframe => true
  | .decframe => true

/-- The opcodes that stand in an RLE stream; the others are written to CMD (R90: the two spaces never meet). -/
def Instr.isStream : Instr → Bool
  | .copy _ => true
  | .fill _ _ => true
  | .pack => false
  | .unpack => false
  | .encrow => false
  | .decrow => false
  | .encframe => false
  | .decframe => false

end Sys2Proof
end

