-- ==== Sys2Proof/Decode.lean ====
section
/-! DEFINITION. The two decoders (of an RLE stream and of the byte written to CMD), the encoder, and the numbering of
spec/opcode_table.json's words (30_encoding.md). -/

namespace Sys2Proof

/-- Why bytes are no instruction. -/
inductive Reject where
  /-- An RLE opcode was asked for at the end of the input: there is no control byte. -/
  | noByte
  /-- The input ends inside an opcode of length `n` (R125). -/
  | truncated (n : Nat)
  /-- The byte is not a command code: 0x00 or 0x07 to 0xFF (R89). -/
  | reservedCommand (v : Byte)
deriving DecidableEq, Repr

/-- The length n of the opcode whose control byte is `c`: the bytes it appends to the output (R83). -/
def opcodeCount (c : Byte) : Nat :=
  if c.toNat < 128 then c.toNat + 1 else 257 - c.toNat

/-- The bytes the opcode with control byte `c` takes in the stream: 2 + c for a COPY, 2 for a FILL (R84). -/
def opcodeSize (c : Byte) : Nat :=
  if c.toNat < 128 then c.toNat + 2 else 2

/-- Read one RLE opcode from the front of a stream; answer it and the bytes after it. Every control byte is legal
(R85); the only rejection of a non-empty input is an opcode the input cuts off. -/
def decodeStream : List Byte → Except Reject (Instr × List Byte)
  | [] => .error .noByte
  | c :: rest =>
    if c.toNat < 128 then
      if rest.length < opcodeCount c then .error (.truncated (opcodeCount c))
      else .ok (.copy (rest.take (opcodeCount c)), rest.drop (opcodeCount c))
    else
      match rest with
      | [] => .error (.truncated (opcodeCount c))
      | v :: rest' => .ok (.fill (opcodeCount c) v, rest')

/-- Read the byte written to CMD: bits 7:3 must be 0 and bits 2:0 are the command code (R88, R89). -/
def decodeCommand (v : Byte) : Except Reject Instr :=
  match v.toNat with
  | 1 => .ok .pack
  | 2 => .ok .unpack
  | 3 => .ok .encrow
  | 4 => .ok .decrow
  | 5 => .ok .encframe
  | 6 => .ok .decframe
  | _ => .error (.reservedCommand v)

/-- The bytes of an instruction: control byte and operands (R81, R82, R83), or the command code (R88). -/
def encode : Instr → List Byte
  | .copy lits => BitVec.ofNat 8 (lits.length - 1) :: lits
  | .fill n val => [BitVec.ofNat 8 (257 - n), val]
  | .pack => [0x01#8]
  | .unpack => [0x02#8]
  | .encrow => [0x03#8]
  | .decrow => [0x04#8]
  | .encframe => [0x05#8]
  | .decframe => [0x06#8]

/-- A stream program as bytes: its opcodes laid end to end with nothing between them (R80, R91). -/
def assemble (prog : List Instr) : List Byte :=
  prog.flatMap encode

/-- The bytes of a table word of `nbits` bits, the first byte in bits 7:0, followed by zeros up to the longest
instruction (a COPY of 128 literals: 129 bytes). -/
def tableBytes (nbits w : Nat) : List Byte :=
  (List.range 129).map fun j => BitVec.ofNat 8 ((w % 2 ^ nbits) >>> (8 * j))

/-- Whether a table word is a command byte: one byte long and a command code. The table's stream rows and command
rows are two spaces (R90); a one-byte word that is a command code is read as the command, every other word as a stream
opcode (log entry 9). -/
def isCommandWord (nbits w : Nat) : Bool :=
  decide (nbits ≤ 8) &&
    match decodeCommand (BitVec.ofNat 8 w) with
    | .ok _ => true
    | .error _ => false

/-- The instruction whose bits, numbered as spec/opcode_table.json numbers them, are `w`. -/
def decodeTableWord (nbits w : Nat) : Option Instr :=
  if isCommandWord nbits w then
    match decodeCommand (BitVec.ofNat 8 w) with
    | .ok i => some i
    | .error _ => none
  else
    match decodeStream (tableBytes nbits w) with
    | .ok (i, _) => some i
    | .error _ => none

end Sys2Proof
end

