-- ==== Sys2Proof/Config.lean ====
section
/-! DEFINITION. What is fixed for the machine: the shape of a geometry, the capacities (00_scope.md R5, R9), and the
one uninterpreted constant every unspecified value of the spec is drawn from (93_implementation_defined.md U1 to U3). -/

namespace Sys2Proof

/-- A geometry (W, H, L): width and height in pixels, and `log2Planes` (R5). The pure functions are defined for every
W a positive multiple of 16, H ≥ 1 and L ≤ 2 (R10); the commands admit only the three of R21. -/
structure Geometry where
  w : Nat
  h : Nat
  l : Nat
deriving DecidableEq, Repr

/-- ROW_CAP: bytes of the raw row-plane buffer RPB (R9, R35). -/
abbrev Config.rowCap : Nat := 80

/-- CROW_CAP: bytes of the compressed row-plane buffer CPB (R9, R36). -/
abbrev Config.crowCap : Nat := 128

/-- RAW: bytes of the plane memory PLN (R7, R9, R33). -/
abbrev Config.raw : Nat := 32000

/-- IDX_CAP: cells of the index memory IDX (R9, R31). -/
abbrev Config.idxCap : Nat := 256000

/-- STR_CAP: bytes of the stream memory STR (R9, R34). -/
abbrev Config.strCap : Nat := 64000

/-- The unspecified values of the spec: the value, `w` bits wide, that draw number `draw` gives for index `index`.
It has no body: nothing is known of any value of it, so a claim holds whatever it is (U1, U2, U3; log entry 1). -/
opaque Config.freeValue (w draw index : Nat) : BitVec w

end Sys2Proof
end

