-- ==== Sys2Proof/Machine/State.lean ====
section
/-! DEFINITION. The state of the block: its registers and memories (10_state.md R20), the decoder's working registers
(R28, R30), the host's side of the interface (44_host_interface.md), and the counter of free values. -/

namespace Sys2Proof.Machine

/-- The values of STATUS (R23); the code 3 is never taken. -/
inductive Status where
  /-- 0: reset has happened and no command has been issued since. -/
  | idle
  /-- 1: the last command ended without a fault. -/
  | done
  /-- 2: a command faulted; terminal until reset. -/
  | failed
deriving DecidableEq, Repr

/-- The values of FAULT: no fault, and the seven causes (R24, R200). -/
inductive Cause where
  /-- 0: STATUS is not FAILED. -/
  | none
  /-- 1: an opcode's length exceeds what the current row-plane still lacks (R201). -/
  | rleOverflow
  /-- 2: the input ends inside an opcode, or before the frame is complete (R202). -/
  | rleTruncated
  /-- 3: input remains after the last row-plane (R203). -/
  | rleTrailing
  /-- 4: a used IDX cell is at or above 2^P (R204). -/
  | indexRange
  /-- 5: CFG_FMT = 3 (R188). -/
  | badConfig
  /-- 6: the value written to CMD is no command code (R187). -/
  | badCommand
  /-- 7: a length register is outside its legal range (R205). -/
  | badLength
deriving DecidableEq, Repr

/-- What `raise Fault(cause, row, plane, ipos, opos, val)` carries (R13, R206). -/
structure FaultRecord where
  cause : Cause
  row   : Nat
  plane : Nat
  ipos  : Nat
  opos  : Nat
  val   : Nat
deriving DecidableEq, Repr

/-- The five address spaces (R50). -/
inductive Space where
  | idx
  | pln
  | str
  | rpb
  | cpb
deriving DecidableEq, Repr

/-- A host action (R180). A register is named by its number, so that a number that names no register can be said
(R183); a value written to a register is a natural below 2^32 (R181). -/
inductive HostAction where
  /-- `Reset` (R230). -/
  | reset
  /-- `HostReadReg(r)` (R181). -/
  | readReg (r : Nat)
  /-- `HostWriteReg(r, v)`; when r is CMD it issues a command (R181, R185). -/
  | writeReg (r : Nat) (v : BitVec 32)
  /-- `HostReadMem(S, a)` (R182). -/
  | readMem (sp : Space) (a : Nat)
  /-- `HostWriteMem(S, a, v)` (R182). -/
  | writeMem (sp : Space) (a : Nat) (v : Nat)
deriving DecidableEq, Repr

/-- A memory of `w`-bit cells: the cells that hold a known value, by rising address, and the draw that the value of
every other cell comes from (log entries 1, 2). For `w` = 8 a listed cell is a `Host.Cell`. -/
structure Memory (w : Nat) where
  epoch : Nat
  cells : List (Nat × BitVec w)
deriving DecidableEq, Repr

/-- The decoder's working registers (R28, R30), which hold a value only inside a DECROW or DECFRAME (R20, R37 (b);
log entry 4). -/
structure Decoder where
  /-- `none` inside DECROW; the geometry of the command inside DECFRAME. -/
  geom : Option Geometry
  /-- The stream pointer, the block's program counter (R28). -/
  ip   : Nat
  /-- The bytes produced so far in the current row-plane; their number is the working register `op`. -/
  row  : List Byte
  /-- The row-planes already complete, in stream order (DECFRAME); their number gives `y` and `z` (R162). -/
  rows : List (List Byte)
deriving DecidableEq, Repr

/-- The state. The registers and memories are R20's record; CMD, the thirteenth register, holds nothing (R22). -/
structure State where
  /-- Register 0, CFG_FMT (R21). -/
  cfgFmt     : BitVec 2
  /-- Register 2, STATUS (R23). -/
  status     : Status
  /-- Register 3, FAULT (R24). -/
  fault      : Cause
  /-- Register 4, ROW_LEN (R25). -/
  rowLen     : BitVec 8
  /-- Register 5, ROW_CNT (R25). -/
  rowCnt     : BitVec 8
  /-- Register 6, CROW_LEN (R26). -/
  crowLen    : BitVec 8
  /-- Register 7, STR_LEN (R27). -/
  strLen     : BitVec 17
  /-- Register 8, FAULT_ROW (R29). -/
  faultRow   : BitVec 9
  /-- Register 9, FAULT_PLANE (R29). -/
  faultPlane : BitVec 2
  /-- Register 10, FAULT_IPOS (R29). -/
  faultIpos  : BitVec 17
  /-- Register 11, FAULT_OPOS (R29). -/
  faultOpos  : BitVec 8
  /-- Register 12, FAULT_VAL (R29). -/
  faultVal   : BitVec 17
  /-- The index memory (R31). -/
  idx        : Memory 4
  /-- The plane memory (R33). -/
  pln        : Memory 8
  /-- The stream memory (R34). -/
  str        : Memory 8
  /-- The raw row-plane buffer (R35). -/
  rpb        : Memory 8
  /-- The compressed row-plane buffer (R36). -/
  cpb        : Memory 8
  /-- The decoder's working registers; `none` between commands (R20, R30). -/
  dec        : Option Decoder
  /-- The actions the host has still to take, first one first (R180; log entry 5). -/
  host       : List HostAction
  /-- The value the last host action returned, if it returns one (R181, R182). -/
  reply      : Option Nat
  /-- The model's own: the number of the next draw of free values (log entry 1). -/
  draws      : Nat
deriving DecidableEq, Repr

/-- There is no way for the machine to stop: every fault the spec describes is taken as a NEXT state, in which STATUS
is FAILED (R206), and nothing is stuck (93_implementation_defined.md, section 2). So this type has no constructor. -/
inductive Fault where
deriving DecidableEq, Repr

/-- What the model has no transition for. -/
inductive Refusal where
  /-- Raised by `exec` for an instruction with no meaning yet; safe. No arm uses it. -/
  | notModelled (mnemonic : String)
  /-- Raised by `step` when the host takes no action: the block takes no step of its own (R180); safe. -/
  | noHostAction
  /-- Raised by a register action whose number is above 12 (R181, R183, U9); safe. -/
  | noSuchRegister (r : Nat)
  /-- Raised by a memory action at or above the capacity of its space (R183, U9); safe. -/
  | noSuchCell (sp : Space) (a : Nat)
  /-- Raised by `exec` of COPY or FILL when no decoding command is running: a stream opcode is executed only inside
  DECROW or DECFRAME (R90, R120); safe. No step reaches it. -/
  | opcodeOutsideDecoder
deriving DecidableEq, Repr

/-- A memory all of whose cells hold unspecified values, those of draw number `draw` (U1, U2, U3). -/
def Memory.unspecified {w : Nat} (draw : Nat) : Memory w :=
  { epoch := draw, cells := [] }

/-- The state just after the first reset (R38, R230, R231): every register 0, every memory cell unspecified (draws 0 to
4), no command running, the host yet to act. -/
def State.reset : State :=
  { cfgFmt := 0#2
    status := .idle
    fault := .none
    rowLen := 0#8
    rowCnt := 0#8
    crowLen := 0#8
    strLen := 0#17
    faultRow := 0#9
    faultPlane := 0#2
    faultIpos := 0#17
    faultOpos := 0#8
    faultVal := 0#17
    idx := Memory.unspecified 0
    pln := Memory.unspecified 1
    str := Memory.unspecified 2
    rpb := Memory.unspecified 3
    cpb := Memory.unspecified 4
    dec := none
    host := []
    reply := none
    draws := 5 }

end Sys2Proof.Machine
end

