-- ==== Sys2Proof/Machine/Flags.lean ====
section
/-! DEFINITION. The block has no condition flag (10_state.md R32); the only status a command leaves is STATUS and FAULT.
Here are their codes and the one way a command reports success. -/

namespace Sys2Proof.Machine

/-- The code of STATUS, field STATE in bits 1:0 (R23). -/
def Status.code : Status → Nat
  | .idle => 0
  | .done => 1
  | .failed => 2

/-- The code of FAULT (R200). -/
def Cause.code : Cause → Nat
  | .none => 0
  | .rleOverflow => 1
  | .rleTruncated => 2
  | .rleTrailing => 3
  | .indexRange => 4
  | .badConfig => 5
  | .badCommand => 6
  | .badLength => 7

/-- `x[STATUS] <- DONE`, the last line of every command's body (R185 step 4). -/
def State.markDone (s : State) : State :=
  { s with status := .done }

end Sys2Proof.Machine
end

