-- ==== Sys2Proof/Machine/Ops.lean ====
section
/-! DEFINITION. The shared operations: memory, registers, taking a fault (60_exceptions.md R206) and leaving it (Reset,
R211, R230), and the unspecified destinations (R208, R37). -/

namespace Sys2Proof.Machine

/-! ### Memory -/

/-- The known value of cell `a`, if the list holds one. -/
def lookupCell {w : Nat} (a : Nat) : List (Nat × BitVec w) → Option (BitVec w)
  | [] => none
  | (b, v) :: t => if a = b then some v else lookupCell a t

/-- Put value `v` at address `a`, keeping the addresses strictly rising. -/
def insertCell {w : Nat} (a : Nat) (v : BitVec w) : List (Nat × BitVec w) → List (Nat × BitVec w)
  | [] => [(a, v)]
  | (b, u) :: t =>
    if a < b then (a, v) :: (b, u) :: t
    else if a = b then (a, v) :: t
    else (b, u) :: insertCell a v t

/-- What a cell that holds no known value reads as: one value per cell, stable until it is written (U1, U11). -/
def Memory.unlisted {w : Nat} (m : Memory w) (a : Nat) : BitVec w :=
  Config.freeValue w m.epoch a

/-- `S[a]`: reading changes nothing and has no side effect (R59). -/
def Memory.read {w : Nat} (m : Memory w) (a : Nat) : BitVec w :=
  (lookupCell a m.cells).getD (m.unlisted a)

/-- `S[a] <- v` (R13, R59). -/
def Memory.write {w : Nat} (m : Memory w) (a : Nat) (v : BitVec w) : Memory w :=
  { m with cells := insertCell a v m.cells }

/-- `[ S[a] for a in 0..n-1 ]`, how every command reads its source. -/
def Memory.readRange {w : Nat} (m : Memory w) (n : Nat) : List (BitVec w) :=
  (List.range n).map m.read

/-- `for a in 0..len(l)-1: S[a] <- l[a]`, how every command writes its destination; the cells at or above len(l) keep
what they hold (D29). -/
def Memory.writeRange {w : Nat} (m : Memory w) (l : List (BitVec w)) : Memory w :=
  { m with cells := (List.range l.length).zip l ++ m.cells.filter fun c => decide (l.length ≤ c.1) }

/-- The canonical form: addresses strictly rising, each below the capacity. A listed cell holds a known value, an
unlisted one the free value of its epoch (log entry 2). -/
def Memory.wf {w : Nat} (cap : Nat) (m : Memory w) : Bool :=
  decide ((m.cells.map Prod.fst).Pairwise (· < ·)) && m.cells.all fun c => decide (c.1 < cap)

/-- Whether a value has been written to cell `a` since its memory was last made unspecified (R190, R233). -/
def Memory.written {w : Nat} (m : Memory w) (a : Nat) : Bool :=
  (lookupCell a m.cells).isSome

/-- The number of cells of a space (R9, R50). -/
def Space.capacity : Space → Nat
  | .idx => Config.idxCap
  | .pln => Config.raw
  | .str => Config.strCap
  | .rpb => Config.rowCap
  | .cpb => Config.crowCap

/-- `HostReadMem(S, a)`'s value, for an address that exists (R182). -/
def State.readCell (s : State) (sp : Space) (a : Nat) : Nat :=
  match sp with
  | .idx => (s.idx.read a).toNat
  | .pln => (s.pln.read a).toNat
  | .str => (s.str.read a).toNat
  | .rpb => (s.rpb.read a).toNat
  | .cpb => (s.cpb.read a).toNat

/-- `HostWriteMem(S, a, v)`'s effect, for an address that exists: v mod 16 in IDX, v mod 256 elsewhere (R182). -/
def State.writeCell (s : State) (sp : Space) (a v : Nat) : State :=
  match sp with
  | .idx => { s with idx := s.idx.write a (BitVec.ofNat 4 v) }
  | .pln => { s with pln := s.pln.write a (BitVec.ofNat 8 v) }
  | .str => { s with str := s.str.write a (BitVec.ofNat 8 v) }
  | .rpb => { s with rpb := s.rpb.write a (BitVec.ofNat 8 v) }
  | .cpb => { s with cpb := s.cpb.write a (BitVec.ofNat 8 v) }

/-! ### Registers -/

/-- `HostReadReg(r)`'s value: `x[r]`, 0 for CMD, nothing for a number above 12 (R181). -/
def State.readReg (s : State) (r : Nat) : Option Nat :=
  match r with
  | 0 => some s.cfgFmt.toNat
  | 1 => some 0
  | 2 => some s.status.code
  | 3 => some s.fault.code
  | 4 => some s.rowLen.toNat
  | 5 => some s.rowCnt.toNat
  | 6 => some s.crowLen.toNat
  | 7 => some s.strLen.toNat
  | 8 => some s.faultRow.toNat
  | 9 => some s.faultPlane.toNat
  | 10 => some s.faultIpos.toNat
  | 11 => some s.faultOpos.toNat
  | 12 => some s.faultVal.toNat
  | _ => none

/-- `HostWriteReg(r, v)`'s effect on a register other than CMD: an RW register stores v mod 2^width, an RO register
ignores the write (R181). -/
def State.writeReg (s : State) (r : Nat) (v : BitVec 32) : State :=
  match r with
  | 0 => { s with cfgFmt := v.setWidth 2 }
  | 4 => { s with rowLen := v.setWidth 8 }
  | 6 => { s with crowLen := v.setWidth 8 }
  | 7 => { s with strLen := v.setWidth 17 }
  | _ => s

/-! ### Taking a fault, and leaving it -/

/-- `raise Fault(cause, row, plane, ipos, opos, val)` as far as it is the same for every command: STATUS, FAULT and the
five context registers (R206). The destination that becomes unspecified is `State.forgetRow` or `State.forgetFrame`
(R208). There is no handler and no saved pc (R209). -/
def State.raise (s : State) (f : FaultRecord) : State :=
  { s with
    status := .failed
    fault := f.cause
    faultRow := BitVec.ofNat 9 f.row
    faultPlane := BitVec.ofNat 2 f.plane
    faultIpos := BitVec.ofNat 17 f.ipos
    faultOpos := BitVec.ofNat 8 f.opos
    faultVal := BitVec.ofNat 17 f.val }

/-- `raise Fault(cause, 0, 0, 0, 0, val)`, the form of the checks made before a body (R185, R207). -/
def State.raisePlain (s : State) (cause : Cause) (val : Nat) : State :=
  s.raise { cause := cause, row := 0, plane := 0, ipos := 0, opos := 0, val := val }

/-- `Reset`: every register takes its reset value and no memory cell is written (R230). It is the only way out of
FAILED (R211). -/
def State.resetRegisters (s : State) : State :=
  { s with
    cfgFmt := 0#2
    status := .idle
    fault := .none
    rowLen := 0#8
    rowCnt := 0#8
    crowLen := 0#8
    strLen := 0#17
    faultRow := 0#9
    faultPlane := 0#2
    faultIpos := 0#17
    faultOpos := 0#8
    faultVal := 0#17 }

/-! ### Unspecified destinations -/

/-- RPB and CPB after a frame command: every cell a fresh unspecified value (R37 (c), R234, U3). -/
def State.forgetScratch (s : State) : State :=
  { s with
    rpb := Memory.unspecified s.draws
    cpb := Memory.unspecified (s.draws + 1)
    draws := s.draws + 2 }

/-- The destination of a DECROW that faulted: all cells of RPB, and ROW_CNT (R208, U2). -/
def State.forgetRow (s : State) : State :=
  { s with
    rpb := Memory.unspecified s.draws
    rowCnt := Config.freeValue 8 (s.draws + 1) 0
    draws := s.draws + 2 }

/-- The destination of a DECFRAME that faulted: all cells of PLN, and the scratch buffers (R206, R208, U2, U3). -/
def State.forgetFrame (s : State) : State :=
  { s.forgetScratch with
    pln := Memory.unspecified (s.draws + 2)
    draws := s.draws + 3 }

end Sys2Proof.Machine
end

