-- ==== Sys2Proof/Machine/Operands.lean ====
section
/-! DEFINITION. What a command operates on: the geometry that CFG_FMT selects and its derived parameters (00_scope.md
R5, R6), the four address computations (20_memory.md R61), the legal lengths (10_state.md R25 to R27), and the part of
every command before its body (44_host_interface.md R185). A command has no operand field of its own (R88). -/

namespace Sys2Proof

/-- P = 1 << L, bitplanes and bits per pixel (R6). -/
def Geometry.planes (g : Geometry) : Nat := 1 <<< g.l

/-- T = W div 16, tiles per row (R6). -/
def Geometry.tiles (g : Geometry) : Nat := g.w / 16

/-- B = W div 8, bytes of one row-plane (R6). -/
def Geometry.rowBytes (g : Geometry) : Nat := g.w / 8

/-- N = H · P, row-planes per frame (R6). -/
def Geometry.rowPlanes (g : Geometry) : Nat := g.h * g.planes

/-- RAW = W · H · P div 8, bytes of packed pixel data (R6). -/
def Geometry.rawBytes (g : Geometry) : Nat := g.w * g.h * g.planes / 8

/-- CELLS = W · H, cells of the index matrix (R6). -/
def Geometry.cellCount (g : Geometry) : Nat := g.w * g.h

/-- The domain of the pure functions: W a positive multiple of 16, H ≥ 1, L in 0, 1, 2 (R10). -/
def Geometry.wf (g : Geometry) : Bool :=
  decide (0 < g.w) && decide (g.w % 16 = 0) && decide (1 ≤ g.h) && decide (g.l ≤ 2)

/-- PI1, PC1: 320 × 200, four bitplanes (R5, R21). -/
def geometryPI1 : Geometry := { w := 320, h := 200, l := 2 }

/-- PI2, PC2: 640 × 200, two bitplanes (R5, R21). -/
def geometryPI2 : Geometry := { w := 640, h := 200, l := 1 }

/-- PI3, PC3: 640 × 400, one bitplane (R5, R21). -/
def geometryPI3 : Geometry := { w := 640, h := 400, l := 0 }

/-- `geometry(x[CFG_FMT])`; the value 3 selects none (R21). -/
def geometryOf (cfg : BitVec 2) : Option Geometry :=
  match cfg.toNat with
  | 0 => some geometryPI1
  | 1 => some geometryPI2
  | 2 => some geometryPI3
  | _ => none

/-- The index cell of pixel (x, y) (R51). -/
def Geometry.cellAddr (g : Geometry) (x y : Nat) : Nat := y * g.w + x

/-- `woff(y, t, z)`: the byte offset of the word of scanline y, tile t, bitplane z (R56). -/
def Geometry.woff (g : Geometry) (y t z : Nat) : Nat := ((y * g.tiles + t) * g.planes + z) * 2

/-- `rpaddr(y, z, j)`: the offset of byte j of row-plane (y, z) (R160). -/
def Geometry.rpaddr (g : Geometry) (y z j : Nat) : Nat := g.woff y (j / 2) z + j % 2

/-- The scanline of row-plane number q (R162). -/
def Geometry.scanlineOf (g : Geometry) (q : Nat) : Nat := q / g.planes

/-- The bitplane of row-plane number q (R162). -/
def Geometry.planeOf (g : Geometry) (q : Nat) : Nat := q % g.planes

namespace Machine

/-- ROW_LEN is legal: 1 to 80 (R25). -/
def State.rowLenLegal (s : State) : Bool :=
  decide (1 ≤ s.rowLen.toNat) && decide (s.rowLen.toNat ≤ Config.rowCap)

/-- CROW_LEN is legal: 0 to 128 (R26). -/
def State.crowLenLegal (s : State) : Bool := decide (s.crowLen.toNat ≤ Config.crowCap)

/-- STR_LEN is legal: 0 to 64000 (R27). -/
def State.strLenLegal (s : State) : Bool := decide (s.strLen.toNat ≤ Config.strCap)

/-- `[ IDX[a] for a in 0..W·H-1 ]` (R102). -/
def State.indexMatrix (s : State) (g : Geometry) : List IndexCell := s.idx.readRange g.cellCount

/-- `[ PLN[a] for a in 0..31999 ]` (R106, R165). -/
def State.planeBytes (s : State) : List Byte := s.pln.readRange Config.raw

/-- `[ STR[a] for a in 0..x[STR_LEN]-1 ]` (R169). DECFRAME reads it only when STR_LEN is legal; for an illegal length see log
entry 15 (DESIGN CHOICE). -/
def State.streamBytes (s : State) : List Byte := s.str.readRange s.strLen.toNat

/-- `[ RPB[a] for a in 0..x[ROW_LEN]-1 ]` (R149). ENCROW reads it only when ROW_LEN is legal (log entry 15). -/
def State.rawRow (s : State) : List Byte := s.rpb.readRange s.rowLen.toNat

/-- `[ CPB[a] for a in 0..x[CROW_LEN]-1 ]` (R127). DECROW reads it only when CROW_LEN is legal; for an illegal length see log
entry 15 (DESIGN CHOICE). -/
def State.codedRow (s : State) : List Byte := s.cpb.readRange s.crowLen.toNat

/-- Issuing a command that reads no geometry, ENCROW or DECROW: nothing happens in FAILED; else its body runs (R184,
R185 steps 1 and 4). -/
def issueRow (body : State → State) (s : State) : State :=
  if s.status = .failed then s else body s

/-- Issuing a geometry command: nothing happens in FAILED; BAD_CONFIG when CFG_FMT is 3; else its body runs under the
selected geometry (R184, R185 steps 1, 3 and 4, R188). -/
def issueFrame (body : Geometry → State → State) (s : State) : State :=
  if s.status = .failed then s
  else
    match geometryOf s.cfgFmt with
    | none => s.raisePlain .badConfig 3
    | some g => body g s

end Machine
end Sys2Proof
end

