-- ==== Sys2Proof/Machine/Bitplane.lean ====
section
/-! DEFINITION. The bitplane packer and unpacker: `pack`, `unpack`, PACK and UNPACK (40_bitplane.md). -/

namespace Sys2Proof.Machine

/-- Bit z of an index, as bit `15 - k` of a word that is otherwise 0 (R101). -/
def laneBit (v : IndexCell) (z k : Nat) : PlaneWord :=
  (if v.getLsbD z then 1#16 else 0#16) <<< (15 - k)

/-- The plane-z word of tile t of scanline y: bit 15 − k is bit z of pixel k of the tile (R101, R108). Past the end of a
matrix shorter than W · H it reads 0 (DESIGN CHOICE, log entry 14). -/
def packWord (g : Geometry) (m : List IndexCell) (y t z : Nat) : PlaneWord :=
  (List.range 16).foldl (fun w k => w ||| laneBit (m.getD (g.cellAddr (16 * t + k) y) 0) z k) 0#16

/-- A word as its two bytes, big-endian: bits 15:8, then bits 7:0 (R55). -/
def wordToBytes (w : PlaneWord) : List Byte :=
  [w.extractLsb' 8 8, w.extractLsb' 0 8]

/-- `pack(M, W, H, L)`: for each row, for each tile left to right, for each bitplane, one big-endian word (R101). -/
def pack (g : Geometry) (m : List IndexCell) : List Byte :=
  (List.range g.h).flatMap fun y =>
    (List.range g.tiles).flatMap fun t =>
      (List.range g.planes).flatMap fun z =>
        wordToBytes (packWord g m y t z)

/-- `MemRead(PLN, a, 2)`: the big-endian word at offset `a` (R13, R55). Past the end of the list it reads 0 (DESIGN CHOICE,
log entry 14). -/
def wordAt (d : List Byte) (a : Nat) : PlaneWord :=
  d.getD a 0 ++ d.getD (a + 1) 0

/-- The index of pixel k of tile t of scanline y: bit z is bit 15 − k of the plane-z word (R105). -/
def unpackCell (g : Geometry) (d : List Byte) (y t k : Nat) : IndexCell :=
  (List.range g.planes).foldl
    (fun v z => v ||| (if (wordAt d (g.woff y t z)).getLsbD (15 - k) then 1#4 else 0#4) <<< z) 0#4

/-- `unpack(D, W, H, L)`: the index matrix, row-major (R105). -/
def unpack (g : Geometry) (d : List Byte) : List IndexCell :=
  (List.range g.h).flatMap fun y =>
    (List.range g.tiles).flatMap fun t =>
      (List.range 16).map fun k => unpackCell g d y t k

/-- The first used cell at or above 2^P in row-major order, with its y, x and value (R103). -/
def firstBadCell (g : Geometry) (m : Memory 4) : Option (Nat × Nat × IndexCell) :=
  (List.range g.h).findSome? fun y =>
    (List.range g.w).findSome? fun x =>
      if 2 ^ g.planes ≤ (m.read (g.cellAddr x y)).toNat then some (y, x, m.read (g.cellAddr x y)) else none

/-- The body of PACK: the range check, made before anything is written, then PLN and STATUS (R102, R103). -/
def packBody (g : Geometry) (s : State) : State :=
  match firstBadCell g s.idx with
  | some (y, x, v) =>
    s.raise { cause := .indexRange, row := y, plane := 0, ipos := x, opos := 0, val := v.toNat }
  | none => { s with pln := s.pln.writeRange (pack g (s.indexMatrix g)) }.markDone

/-- The body of UNPACK (R106). -/
def unpackBody (g : Geometry) (s : State) : State :=
  { s with idx := s.idx.writeRange (unpack g s.planeBytes) }.markDone

/-- PACK (R102, R185). -/
def execPack (s : State) : Host.Outcome State Fault Refusal :=
  .next (issueFrame packBody s)

/-- UNPACK (R106, R185). -/
def execUnpack (s : State) : Host.Outcome State Fault Refusal :=
  .next (issueFrame unpackBody s)

end Sys2Proof.Machine
end

