-- ==== Sys2Proof/Machine/Stream.lean ====
section
/-! DEFINITION. The opcodes of an RLE stream, COPY and FILL, and the opcode step of the decoder (41_rle_decode.md). -/

namespace Sys2Proof.Machine

/-- A fault of the opcode step: (cause, ipos, opos, val); the caller adds row and plane (R121). -/
structure StreamFault where
  cause : Cause
  ipos  : Nat
  opos  : Nat
  val   : Nat
deriving DecidableEq, Repr

/-- `op + n > budget`, the document's overflow: the opcode of length n would write past the row-plane (R121, R201). -/
def overflows (op n budget : Nat) : Bool := decide (op + n > budget)

/-- COPY at `ip`: the overflow check, then the n literals verbatim, and ip moves past them (R121, R122). -/
def copyOp (lits : List Byte) (ip op budget : Nat) : Except StreamFault (Nat × List Byte) :=
  if overflows op lits.length budget then
    .error { cause := .rleOverflow, ipos := ip, opos := op, val := lits.length }
  else .ok (ip + 1 + lits.length, lits)

/-- FILL at `ip`: the overflow check, then n copies of the value byte, and ip moves past the two bytes (R121, R123). -/
def fillOp (n : Nat) (val : Byte) (ip op budget : Nat) : Except StreamFault (Nat × List Byte) :=
  if overflows op n budget then
    .error { cause := .rleOverflow, ipos := ip, opos := op, val := n }
  else .ok (ip + 2, List.replicate n val)

/-- The step of a decoded opcode: the new stream pointer and the bytes to append, or a fault. A command is never read
from a stream (R90) and would append nothing. -/
def opcodeStep (i : Instr) (ip op budget : Nat) : Except StreamFault (Nat × List Byte) :=
  match i with
  | .copy lits => copyOp lits ip op budget
  | .fill n val => fillOp n val ip op budget
  | .pack => .ok (ip, [])
  | .unpack => .ok (ip, [])
  | .encrow => .ok (ip, [])
  | .decrow => .ok (ip, [])
  | .encframe => .ok (ip, [])
  | .decframe => .ok (ip, [])

/-- What an opcode the input cuts off does: RLE_OVERFLOW if its length n, known from the control byte alone, passes
the budget, else RLE_TRUNCATED (R121, R125, R210 (5)). -/
def cutOpcodeFault (n ip op budget : Nat) : StreamFault :=
  if overflows op n budget then { cause := .rleOverflow, ipos := ip, opos := op, val := n }
  else { cause := .rleTruncated, ipos := ip, opos := op, val := n }

/-- `decodeOp(inp, ip, op, budget)`: fetch and execute one opcode (R121). It is called only with ip < len(inp), so the
case with no control byte does not arise. -/
def decodeOp (inp : List Byte) (ip op budget : Nat) : Except StreamFault (Nat × List Byte) :=
  match decodeStream (inp.drop ip) with
  | .ok (i, _) => opcodeStep i ip op budget
  | .error (.truncated n) => .error (cutOpcodeFault n ip op budget)
  | .error .noByte => .error { cause := .rleTruncated, ipos := ip, opos := op, val := 0 }
  | .error (.reservedCommand _) => .error { cause := .rleTruncated, ipos := ip, opos := op, val := 0 }

/-! ### The opcode as an instruction of the machine, inside a decoding command -/

/-- The bytes the running decoder fetches from: CPB inside DECROW, STR inside DECFRAME (R28, R66). -/
def Decoder.input (d : Decoder) (s : State) : List Byte :=
  match d.geom with
  | none => s.codedRow
  | some _ => s.streamBytes

/-- The bytes the current row-plane holds: ROW_LEN inside DECROW, B of the geometry inside DECFRAME (R201). -/
def Decoder.budget (d : Decoder) (s : State) : Nat :=
  match d.geom with
  | none => s.rowLen.toNat
  | some g => g.rowBytes

/-- A decoding fault of DECROW: row and plane are 0, RPB and ROW_CNT become unspecified (R127, R207, R208). -/
def failRow (e : StreamFault) (s : State) : State :=
  s.forgetRow.raise { cause := e.cause, row := 0, plane := 0, ipos := e.ipos, opos := e.opos, val := e.val }

/-- A decoding fault of DECFRAME: PLN, RPB and CPB become unspecified (R169, R206, R208). -/
def failFrame (f : FaultRecord) (s : State) : State :=
  s.forgetFrame.raise f

/-- A fault of the opcode step inside a running decoder ends its command (R206). -/
def Decoder.fail (d : Decoder) (e : StreamFault) (s : State) : State :=
  match d.geom with
  | none => { failRow e s with dec := none }
  | some g =>
    { failFrame
        { cause := e.cause
          row := g.scanlineOf d.rows.length
          plane := g.planeOf d.rows.length
          ipos := e.ipos
          opos := e.opos
          val := e.val } s with dec := none }

/-- Execute a stream opcode in the running decoder: its bytes are appended to the current row-plane and ip moves past
it, or it faults and nothing of it is written (R121). With no decoder running there is no such step (log entry 4). -/
def runOpcode (f : Nat → Nat → Nat → Except StreamFault (Nat × List Byte)) (s : State) :
    Host.Outcome State Fault Refusal :=
  match s.dec with
  | none => .refused .opcodeOutsideDecoder
  | some d =>
    match f d.ip d.row.length (d.budget s) with
    | .ok (ip, bytes) => .next { s with dec := some { d with ip := ip, row := d.row ++ bytes } }
    | .error e => .next (d.fail e s)

/-- COPY (R122). -/
def execCopy (lits : List Byte) (s : State) : Host.Outcome State Fault Refusal :=
  runOpcode (copyOp lits) s

/-- FILL (R123). -/
def execFill (n : Nat) (val : Byte) (s : State) : Host.Outcome State Fault Refusal :=
  runOpcode (fillOp n val) s

end Sys2Proof.Machine
end

