-- ==== Sys2Proof/Machine/RowCodec.lean ====
section
/-! DEFINITION. The RLE codec on one row-plane: `rleEncode`, `rleDecode`, ENCROW and DECROW (41_rle_decode.md,
42_rle_encode.md). -/

namespace Sys2Proof.Machine

/-! ### The encoder -/

/-- How many bytes equal to `v` a list begins with. -/
def leadingCount (v : Byte) : List Byte → Nat
  | [] => 0
  | b :: t => if b = v then leadingCount v t + 1 else 0

/-- `runLen`: the length of the maximal run of equal bytes a list begins with (R141). -/
def runLen : List Byte → Nat
  | [] => 0
  | b :: t => leadingCount b t + 1

/-- `flushLit(l)` as opcodes: full chunks of 128 first, then the remainder (R144). The fuel is the number of bytes. -/
def flushChunks : Nat → List Byte → List Instr
  | 0, _ => []
  | _ + 1, [] => []
  | fuel + 1, b :: t =>
    .copy ((b :: t).take (min 128 (b :: t).length)) ::
      flushChunks fuel ((b :: t).drop (min 128 (b :: t).length))

/-- `flushLit(l)` (R144). -/
def flushLit (l : List Byte) : List Instr := flushChunks l.length l

/-- The length of the next FILL when `r` bytes of a run remain: 128 of exactly 130, else at most 129 (R145). -/
def fillChunk (r : Nat) : Nat :=
  if r = 130 then 128 else if 129 < r then 129 else r

/-- `emitFill(v, r)` as opcodes (R145). The fuel is the number of bytes. -/
def fillChunks (v : Byte) : Nat → Nat → List Instr
  | 0, _ => []
  | fuel + 1, r =>
    if r = 0 then [] else .fill (fillChunk r) v :: fillChunks v fuel (r - fillChunk r)

/-- `emitFill(v, r)` (R145). -/
def emitFill (v : Byte) (r : Nat) : List Instr := fillChunks v r r

/-- The scan of `rleEncode`: `pend` is the pending literals s[ls..i) and the last argument s[i..) (R142, R143). Each
iteration takes at least one byte, so the number of bytes is fuel enough. -/
def encodeScan : Nat → List Byte → List Byte → List Instr
  | 0, pend, _ => flushLit pend
  | _ + 1, pend, [] => flushLit pend
  | fuel + 1, pend, b :: t =>
    if 2 ≤ runLen (b :: t) then
      flushLit pend ++ emitFill b (runLen (b :: t)) ++ encodeScan fuel [] ((b :: t).drop (runLen (b :: t)))
    else encodeScan fuel (pend ++ [b]) t

/-- The opcodes `rleEncode(s)` emits, in order (R142). -/
def rleProgram (s : List Byte) : List Instr := encodeScan s.length [] s

/-- `rleEncode(s)` (R142). -/
def rleEncode (s : List Byte) : List Byte := assemble (rleProgram s)

/-! ### The decoder -/

/-- The loop of `rleDecode` from stream pointer `ip` with output `out` (R124). Each iteration takes at least two bytes
of the input, so its length is fuel enough. -/
def rleDecodeFrom (inp : List Byte) (budget : Nat) : Nat → Nat → List Byte → Except StreamFault (List Byte)
  | 0, _, out => .ok out
  | fuel + 1, ip, out =>
    if ip < inp.length then
      match decodeOp inp ip out.length budget with
      | .error e => .error e
      | .ok (ip', bytes) => rleDecodeFrom inp budget fuel ip' (out ++ bytes)
    else .ok out

/-- `rleDecode(inp, budget)`: one row-plane given as its own byte list (R124). -/
def rleDecode (inp : List Byte) (budget : Nat) : Except StreamFault (List Byte) :=
  rleDecodeFrom inp budget inp.length 0 []

/-! ### The commands -/

/-- The successful end of ENCROW: CPB[0..m), CROW_LEN, STATUS (R149). -/
def finishEncrow (e : List Byte) (s : State) : State :=
  { s with cpb := s.cpb.writeRange e, crowLen := BitVec.ofNat 8 e.length }.markDone

/-- The successful end of DECROW: RPB[0..produced), ROW_CNT, STATUS (R127). -/
def finishDecrow (r : List Byte) (s : State) : State :=
  { s with rpb := s.rpb.writeRange r, rowCnt := BitVec.ofNat 8 r.length }.markDone

/-- The body of ENCROW (R149). -/
def encrowBody (s : State) : State :=
  if s.rowLenLegal then finishEncrow (rleEncode s.rawRow) s
  else s.raisePlain .badLength s.rowLen.toNat

/-- The body of DECROW; ROW_LEN is tested before CROW_LEN (R127, R210 (3)). -/
def decrowBody (s : State) : State :=
  if s.rowLenLegal then
    if s.crowLenLegal then
      match rleDecode s.codedRow s.rowLen.toNat with
      | .error e => failRow e s
      | .ok r => finishDecrow r s
    else s.raisePlain .badLength s.crowLen.toNat
  else s.raisePlain .badLength s.rowLen.toNat

/-- ENCROW (R149, R185). -/
def execEncrow (s : State) : Host.Outcome State Fault Refusal :=
  .next (issueRow encrowBody s)

/-- DECROW (R127, R185). -/
def execDecrow (s : State) : Host.Outcome State Fault Refusal :=
  .next (issueRow decrowBody s)

end Sys2Proof.Machine
end

