-- ==== Sys2Proof/Machine/FrameCodec.lean ====
section
/-! DEFINITION. The RLE codec on a whole frame: row-planes, `encodeFrame`, `decodeFrame`, ENCFRAME and DECFRAME
(43_frame_codec.md). -/

namespace Sys2Proof.Machine

/-! ### Row-planes -/

/-- `gather(D, W, H, L, y, z)`: the bytes of row-plane (y, z), left to right (R160). Past the end of a list shorter than
the geometry's RAW bytes it reads 0 (DESIGN CHOICE, log entry 14). -/
def gather (g : Geometry) (d : List Byte) (y z : Nat) : List Byte :=
  (List.range g.rowBytes).map fun j => d.getD (g.rpaddr y z j) 0

/-- `scatter`: `d` with the byte list `r` as row-plane (y, z); every other byte is left alone (R161). Past the end of an `r`
shorter than B it reads 0, and past the end of `d` it writes nothing (DESIGN CHOICE, log entry 14). -/
def scatter (g : Geometry) (d : List Byte) (y z : Nat) (r : List Byte) : List Byte :=
  (List.range g.rowBytes).foldl (fun d j => d.set (g.rpaddr y z j) (r.getD j 0)) d

/-- The row-planes of a frame, from number `q` on, scattered into `d` (R161, R162). -/
def scatterFrom (g : Geometry) : Nat → List (List Byte) → List Byte → List Byte
  | _, [], d => d
  | q, r :: rs, d => scatterFrom g (q + 1) rs (scatter g d (g.scanlineOf q) (g.planeOf q) r)

/-- The plane bytes that the N row-planes of a frame, in stream order, make. Every byte is written (R161), so the
byte the list starts from is not observable (log entry 8). -/
def assemblePlanes (g : Geometry) (rows : List (List Byte)) : List Byte :=
  scatterFrom g 0 rows (List.replicate g.rawBytes 0)

/-! ### Encoding and decoding a frame -/

/-- `encodeFrame(D, W, H, L)`: the encoded row-planes, scanline by scanline, planes ascending (R162, R163). -/
def encodeFrame (g : Geometry) (d : List Byte) : List Byte :=
  (List.range g.h).flatMap fun y =>
    (List.range g.planes).flatMap fun z => rleEncode (gather g d y z)

/-- The fault of row-plane number `q` (R167). -/
def rowFault (g : Geometry) (q : Nat) (e : StreamFault) : FaultRecord :=
  { cause := e.cause
    row := g.scanlineOf q
    plane := g.planeOf q
    ipos := e.ipos
    opos := e.opos
    val := e.val }

/-- The inner loop of `decodeFrame`: decode from `ip` until the row-plane's B bytes are produced (R167, R170). Each
opcode produces at least one byte, so B is fuel enough. -/
def decodeRowPlane (g : Geometry) (inp : List Byte) : Nat → Nat → List Byte → Except StreamFault (Nat × List Byte)
  | 0, ip, row => .ok (ip, row)
  | fuel + 1, ip, row =>
    if row.length < g.rowBytes then
      if inp.length ≤ ip then .error { cause := .rleTruncated, ipos := ip, opos := row.length, val := 0 }
      else
        match decodeOp inp ip row.length g.rowBytes with
        | .error e => .error e
        | .ok (ip', bytes) => decodeRowPlane g inp fuel ip' (row ++ bytes)
    else .ok (ip, row)

/-- The outer loops of `decodeFrame`: `n` row-planes from number `q` on, with one stream pointer (R162, R167). -/
def decodeRowPlanes (g : Geometry) (inp : List Byte) : Nat → Nat → Nat → Except FaultRecord (Nat × List (List Byte))
  | 0, _, ip => .ok (ip, [])
  | n + 1, q, ip =>
    match decodeRowPlane g inp g.rowBytes ip [] with
    | .error e => .error (rowFault g q e)
    | .ok (ip', row) =>
      match decodeRowPlanes g inp n (q + 1) ip' with
      | .error f => .error f
      | .ok (ip'', rows) => .ok (ip'', row :: rows)

/-- The fault of input left after the last row-plane (R171). -/
def trailingFault (g : Geometry) (ip : Nat) : FaultRecord :=
  { cause := .rleTrailing, row := g.h, plane := 0, ipos := ip, opos := 0, val := 0 }

/-- `decodeFrame(inp, W, H, L)` (R167). -/
def decodeFrame (g : Geometry) (inp : List Byte) : Except FaultRecord (List Byte) :=
  match decodeRowPlanes g inp g.rowPlanes 0 0 with
  | .error f => .error f
  | .ok (ip, rows) =>
    if ip < inp.length then .error (trailingFault g ip) else .ok (assemblePlanes g rows)

/-! ### The commands -/

/-- The end of ENCFRAME: STR[0..m), STR_LEN, the scratch buffers, STATUS (R165). -/
def finishEncframe (e : List Byte) (s : State) : State :=
  { s with str := s.str.writeRange e, strLen := BitVec.ofNat 17 e.length }.forgetScratch.markDone

/-- The successful end of DECFRAME: PLN, the scratch buffers, STATUS (R169). -/
def finishDecframe (d : List Byte) (s : State) : State :=
  { s with pln := s.pln.writeRange d }.forgetScratch.markDone

/-- The body of ENCFRAME (R165). -/
def encframeBody (g : Geometry) (s : State) : State :=
  finishEncframe (encodeFrame g s.planeBytes) s

/-- The body of DECFRAME (R169). -/
def decframeBody (g : Geometry) (s : State) : State :=
  if s.strLenLegal then
    match decodeFrame g s.streamBytes with
    | .error f => failFrame f s
    | .ok d => finishDecframe d s
  else s.raisePlain .badLength s.strLen.toNat

/-- ENCFRAME (R165, R185). -/
def execEncframe (s : State) : Host.Outcome State Fault Refusal :=
  .next (issueFrame encframeBody s)

/-- DECFRAME (R169, R185). -/
def execDecframe (s : State) : Host.Outcome State Fault Refusal :=
  .next (issueFrame decframeBody s)

/-! ### The decoding commands opcode by opcode -/

/-- The inside of a DECROW that has just begun: ip = 0, nothing produced (R124, R127). -/
def State.beginDecrow (s : State) : State :=
  { s with dec := some { geom := none, ip := 0, row := [], rows := [] } }

/-- The inside of a DECFRAME that has just begun (R167, R169). -/
def State.beginDecframe (g : Geometry) (s : State) : State :=
  { s with dec := some { geom := some g, ip := 0, row := [], rows := [] } }

/-- Fetch the opcode at ip and run it; an opcode the input cuts off ends the command (R121, R125). -/
def Decoder.fetchAndRun (run : Instr → State → Host.Outcome State Fault Refusal) (d : Decoder) (s : State) :
    Host.Outcome State Fault Refusal :=
  match decodeStream ((d.input s).drop d.ip) with
  | .ok (i, _) => run i s
  | .error (.truncated n) => .next (d.fail (cutOpcodeFault n d.ip d.row.length (d.budget s)) s)
  | .error .noByte =>
    .next (d.fail { cause := .rleTruncated, ipos := d.ip, opos := d.row.length, val := 0 } s)
  | .error (.reservedCommand _) =>
    .next (d.fail { cause := .rleTruncated, ipos := d.ip, opos := d.row.length, val := 0 } s)

/-- One step inside a decoding command (log entry 4). DECROW: an opcode, or at the end of its input the end of the
command (R124, R127). DECFRAME: an opcode of the current row-plane, or, when its B bytes are complete, the next
row-plane, or, when all N are, the end of the command (R167, R170, R171). -/
def Decoder.step (run : Instr → State → Host.Outcome State Fault Refusal) (d : Decoder) (s : State) :
    Host.Outcome State Fault Refusal :=
  match d.geom with
  | none =>
    if d.ip < (d.input s).length then d.fetchAndRun run s
    else .next { finishDecrow d.row s with dec := none }
  | some g =>
    if d.rows.length < g.rowPlanes then
      if d.row.length < g.rowBytes then d.fetchAndRun run s
      else .next { s with dec := some { d with row := [], rows := d.rows ++ [d.row] } }
    else if d.ip < (d.input s).length then .next { failFrame (trailingFault g d.ip) s with dec := none }
    else .next { finishDecframe (assemblePlanes g d.rows) s with dec := none }

end Sys2Proof.Machine
end

