-- ==== Sys2Proof/Machine/HostActions.lean ====
section
/-! DEFINITION. The five host actions and command issue (44_host_interface.md), the placing of a word where the next step
takes its instruction, and the correspondence of the memories to a file (20_memory.md R62). -/

namespace Sys2Proof.Machine

/-- The number of CMD (R22). -/
def cmdRegister : Nat := 1

/-- The byte of a value written to CMD: v mod 256 (R185 step 2). -/
def commandByte (v : BitVec 32) : Byte := v.setWidth 8

/-- `HostWriteReg(CMD, v)` when STATUS is not FAILED: run the command, or raise BAD_COMMAND (R185, R187). `run` is
`exec`. -/
def issueCommand (run : Instr → State → Host.Outcome State Fault Refusal) (v : BitVec 32) (s : State) :
    Host.Outcome State Fault Refusal :=
  match decodeCommand (commandByte v) with
  | .ok i => run i s
  | .error _ => .next (s.raisePlain .badCommand (commandByte v).toNat)

/-- `HostReadReg(r)` (R181); refused when r names no register (R183). -/
def hostReadReg (r : Nat) (s : State) : Host.Outcome State Fault Refusal :=
  match s.readReg r with
  | some v => .next { s with reply := some v }
  | none => .refused (.noSuchRegister r)

/-- `HostWriteReg(r, v)`: refused when r names no register (R183); ignored in FAILED (R184); a command when r is CMD
(R185); else a register write (R181). -/
def hostWriteReg (run : Instr → State → Host.Outcome State Fault Refusal) (r : Nat) (v : BitVec 32) (s : State) :
    Host.Outcome State Fault Refusal :=
  if 12 < r then .refused (.noSuchRegister r)
  else if s.status = .failed then .next s
  else if r = cmdRegister then issueCommand run v s
  else .next (s.writeReg r v)

/-- `HostReadMem(S, a)` (R182); refused when the cell does not exist (R183). -/
def hostReadMem (sp : Space) (a : Nat) (s : State) : Host.Outcome State Fault Refusal :=
  if a < sp.capacity then .next { s with reply := some (s.readCell sp a) }
  else .refused (.noSuchCell sp a)

/-- `HostWriteMem(S, a, v)` (R182); refused when the cell does not exist (R183); ignored in FAILED (R184). -/
def hostWriteMem (sp : Space) (a v : Nat) (s : State) : Host.Outcome State Fault Refusal :=
  if a < sp.capacity then
    if s.status = .failed then .next s else .next (s.writeCell sp a v)
  else .refused (.noSuchCell sp a)

/-- One host action (R180). -/
def performAction (run : Instr → State → Host.Outcome State Fault Refusal) (a : HostAction) (s : State) :
    Host.Outcome State Fault Refusal :=
  match a with
  | .reset => .next s.resetRegisters
  | .readReg r => hostReadReg r s
  | .writeReg r v => hostWriteReg run r v s
  | .readMem sp a => hostReadMem sp a s
  | .writeMem sp a v => hostWriteMem sp a v s

/-- The state in which the first pending action is being taken: it is no longer pending and nothing has been returned
yet. -/
def State.takeAction (s : State) (rest : List HostAction) : State :=
  { s with host := rest, reply := none }

/-- `CMD NAME`: the write to CMD that issues a command (R92). A stream opcode is no command; its first byte is written
as it stands. -/
def hostCommand (i : Instr) : HostAction :=
  .writeReg cmdRegister (((encode i).headD 0).setWidth 32)

/-- `WM SPACE[a..b), l`: the cells of `l` written one by one from address `a` on (R92). -/
def hostWriteBlock (sp : Space) (a : Nat) (l : List Nat) : List HostAction :=
  (List.range l.length).map fun j => .writeMem sp (a + j) (l.getD j 0)

/-! ### Placing an instruction -/

/-- `s` with the command byte `v` as the host's next action, a write to CMD, and no command running. -/
def State.placeCommand (s : State) (v : Byte) : State :=
  { s with dec := none, host := .writeReg cmdRegister (v.setWidth 32) :: s.host }

/-- `s` inside a DECFRAME, at the beginning of a row-plane, with the opcode `bytes` as its whole stream (log entry 9). -/
def State.placeOpcode (s : State) (bytes : List Byte) : State :=
  { s.beginDecframe ((geometryOf s.cfgFmt).getD geometryPI1) with
    str := s.str.writeRange bytes
    strLen := BitVec.ofNat 17 bytes.length }

/-- The bytes of the stream opcode a table word stands for. -/
def opcodeBytes (nbits w : Nat) : List Byte :=
  (tableBytes nbits w).take (opcodeSize (BitVec.ofNat 8 w))

/-! ### The memories as a file -/

/-- The pixel data of a raw file, bytes 34 on: PLN (R62). -/
def State.rawPixelData (s : State) : List Byte := s.planeBytes

/-- The pixel data of a compressed file, bytes 34 on: STR[0 .. STR_LEN) (R62). When STR_LEN is an illegal 64001 to 131071 STR
has no such cells; the bytes from 64000 on are then free values (DESIGN CHOICE, log entry 15). -/
def State.compressedPixelData (s : State) : List Byte := s.streamBytes

/-- A file: the host's 34 header bytes (format id and palette), then the pixel data (R62). -/
def fileImage (header pixelData : List Byte) : List Byte := header ++ pixelData

end Sys2Proof.Machine
end

