-- ==== Sys2Proof/Machine/Dispatch.lean ====
section
/-! DEFINITION. The dispatch of an instruction to its meaning, one arm per row of spec/opcode_table.json. -/

namespace Sys2Proof.Machine

def exec (i : Instr) (s : State) : Host.Outcome State Fault Refusal :=
  match i with
  | .copy lits => Sys2Proof.Machine.execCopy lits s
  | .fill n val => Sys2Proof.Machine.execFill n val s
  | .pack => Sys2Proof.Machine.execPack s
  | .unpack => Sys2Proof.Machine.execUnpack s
  | .encrow => Sys2Proof.Machine.execEncrow s
  | .decrow => Sys2Proof.Machine.execDecrow s
  | .encframe => Sys2Proof.Machine.execEncframe s
  | .decframe => Sys2Proof.Machine.execDecframe s

end Sys2Proof.Machine
end

