-- ==== Sys2Proof/Machine/Step.lean ====
section
/-! DEFINITION. One step of the machine: one host action (44_host_interface.md R180), or, inside a decoding command, one
opcode of its stream (log entry 4). -/

namespace Sys2Proof.Machine

/-- One step. Between commands it is the host's next action; a command is then one atomic step (R186). With no action
pending the block takes no step of its own (R180). Inside a decoding command it is the decoder's next opcode. -/
def step (s : State) : Host.Outcome State Fault Refusal :=
  match s.dec with
  | some d => d.step exec s
  | none =>
    match s.host with
    | [] => .refused .noHostAction
    | a :: rest => performAction exec a (s.takeAction rest)

/-- `s` with the instruction whose bits, numbered as spec/opcode_table.json numbers them, are `w`, placed so that the
very next step runs it: a command as the host's next action, a stream opcode as the stream of a running DECFRAME. -/
def State.withFetchWord (s : State) (nbits w : Nat) : State :=
  if isCommandWord nbits w then s.placeCommand (BitVec.ofNat 8 w)
  else s.placeOpcode (opcodeBytes nbits w)

end Sys2Proof.Machine
end

