-- ==== Sys2Proof/Safety.lean ====
section
/-! DEFINITION. What the claims speak of: the invariant of the block between commands, the legal fault contexts, the
memory a command may write, and the legal shape of an encoder's output. -/

namespace Sys2Proof.Machine

/-- A run is safe as long as the block is not FAILED (R212). -/
def State.safe (s : State) : Bool := decide (s.status ≠ .failed)

/-- Every memory is in its canonical form, with no cell at or above its capacity (R50, R52). -/
def State.memoriesWf (s : State) : Bool :=
  s.idx.wf Config.idxCap && s.pln.wf Config.raw && s.str.wf Config.strCap && s.rpb.wf Config.rowCap
    && s.cpb.wf Config.crowCap

/-- `x[FAULT] ≠ 0` exactly when `x[STATUS] = FAILED` (R24). -/
def State.faultMatchesStatus (s : State) : Bool :=
  decide (s.fault = .none) == decide (s.status ≠ .failed)

/-- The fault context registers are all 0. -/
def State.contextZero (s : State) : Bool :=
  decide (s.faultRow = 0) && decide (s.faultPlane = 0) && decide (s.faultIpos = 0) && decide (s.faultOpos = 0)
    && decide (s.faultVal = 0)

/-- No memory draws its unspecified cells from a draw still to come (the model's own bookkeeping, log entry 1). -/
def State.drawsFresh (s : State) : Bool :=
  decide (s.idx.epoch < s.draws) && decide (s.pln.epoch < s.draws) && decide (s.str.epoch < s.draws)
    && decide (s.rpb.epoch < s.draws) && decide (s.cpb.epoch < s.draws)

/-- The invariant of the block between host actions: canonical memories (R50), FAULT set exactly in FAILED (R24), the
context registers 0 unless FAILED (R29), and no decoder running (R20: the working registers hold no value between
steps). -/
def State.inv (s : State) : Bool :=
  s.memoriesWf && s.faultMatchesStatus && (decide (s.status = .failed) || s.contextZero) && s.drawsFresh
    && decide (s.dec = none)

/-- A property of the geometry that CFG_FMT selects; false when it selects none. -/
def State.underGeometry (s : State) (p : Geometry → Bool) : Bool :=
  match geometryOf s.cfgFmt with
  | none => false
  | some g => p g

/-- The context of a fault at an opcode, for a row-plane of `budget` bytes and an input of `len` bytes (R207, R121): the
offset of its control byte lies in the input, the bytes already produced are within the budget, its length is 1 to 129,
and it exceeds what is missing exactly when the cause is RLE_OVERFLOW. -/
def State.opcodeContext (s : State) (budget len : Nat) : Bool :=
  decide (s.faultIpos.toNat < len) && decide (s.faultOpos.toNat ≤ budget) && decide (1 ≤ s.faultVal.toNat)
    && decide (s.faultVal.toNat ≤ 129)
    && (decide (s.fault = .rleOverflow) == decide (budget < s.faultOpos.toNat + s.faultVal.toNat))

/-- A fault at an opcode of DECROW: legal lengths, row 0, plane 0 (R207, R127). -/
def State.rowContext (s : State) : Bool :=
  s.rowLenLegal && s.crowLenLegal && decide (s.faultRow = 0) && decide (s.faultPlane = 0)
    && s.opcodeContext s.rowLen.toNat s.crowLen.toNat

/-- A fault of DECFRAME inside a row-plane: the row-plane is one of the frame's, and it is incomplete (R207, R167). -/
def State.frameContext (s : State) (g : Geometry) : Bool :=
  s.strLenLegal && decide (s.faultRow.toNat < g.h) && decide (s.faultPlane.toNat < g.planes)
    && decide (s.faultOpos.toNat < g.rowBytes)

/-- The fault context registers hold what the table of R207 gives for the cause in FAULT, with the registers that the
faulted command read, which it left unchanged. -/
def State.contextLegal (s : State) : Bool :=
  match s.fault with
  | .none => s.contextZero
  | .rleOverflow =>
    s.rowContext || s.underGeometry fun g => s.frameContext g && s.opcodeContext g.rowBytes s.strLen.toNat
  | .rleTruncated =>
    s.rowContext || s.underGeometry fun g =>
      s.frameContext g &&
        (s.opcodeContext g.rowBytes s.strLen.toNat ||
          (decide (s.faultIpos.toNat = s.strLen.toNat) && decide (s.faultVal = 0)))
  | .rleTrailing =>
    s.underGeometry fun g =>
      s.strLenLegal && decide (s.faultRow.toNat = g.h) && decide (s.faultPlane = 0)
        && decide (s.faultIpos.toNat < s.strLen.toNat) && decide (s.faultOpos = 0) && decide (s.faultVal = 0)
  | .indexRange =>
    s.underGeometry fun g =>
      decide (s.faultRow.toNat < g.h) && decide (s.faultPlane = 0) && decide (s.faultIpos.toNat < g.w)
        && decide (s.faultOpos = 0) && decide (2 ^ g.planes ≤ s.faultVal.toNat) && decide (s.faultVal.toNat ≤ 15)
  | .badConfig =>
    decide (s.faultRow = 0) && decide (s.faultPlane = 0) && decide (s.faultIpos = 0) && decide (s.faultOpos = 0)
      && decide (s.faultVal = 3) && decide (s.cfgFmt = 3)
  | .badCommand =>
    decide (s.faultRow = 0) && decide (s.faultPlane = 0) && decide (s.faultIpos = 0) && decide (s.faultOpos = 0)
      && (decide (s.faultVal = 0) || decide (7 ≤ s.faultVal.toNat)) && decide (s.faultVal.toNat ≤ 255)
  | .badLength =>
    decide (s.faultRow = 0) && decide (s.faultPlane = 0) && decide (s.faultIpos = 0) && decide (s.faultOpos = 0)
      && ((!s.rowLenLegal && decide (s.faultVal.toNat = s.rowLen.toNat))
        || (!s.crowLenLegal && decide (s.faultVal.toNat = s.crowLen.toNat))
        || (!s.strLenLegal && decide (s.faultVal.toNat = s.strLen.toNat)))

/-- Every cell of `m` holds an unspecified value drawn no earlier than draw `k`: nothing is known of any of them. -/
def Memory.freshFrom {w : Nat} (m : Memory w) (k : Nat) : Bool :=
  decide (m.cells = []) && decide (k ≤ m.epoch)

/-- Two memories read alike at every address. -/
def Memory.sameReads {w : Nat} (m m' : Memory w) : Prop :=
  ∀ a, m.read a = m'.read a

/-- The cells below `n` read as the list `l`, the others as before: what a successful command leaves in its destination
(D29). -/
def Memory.holds {w : Nat} (m before : Memory w) (l : List (BitVec w)) : Prop :=
  (∀ a, (h : a < l.length) → m.read a = l[a]) ∧ ∀ a, l.length ≤ a → m.read a = before.read a

/-- Whether two opcodes may follow each other in an encoder's output (R151): a COPY before a COPY holds exactly 128
literals; a FILL before a FILL of the same value holds 129 or 128; a byte after a run differs from it; the literals of
consecutive COPYs have no two equal neighbours. -/
def legalNeighbours : Instr → Instr → Bool
  | .copy l, .copy l' => decide (l.length = 128) && decide (l.getLast? ≠ l'.head?)
  | .fill n v, .fill _ v' => decide (v ≠ v') || decide (n = 129) || decide (n = 128)
  | .fill _ v, .copy l => decide (l.head? ≠ some v)
  | _, _ => true

end Sys2Proof.Machine
end

