-- ==== Sys2Proof/Certificates/Slice0/Obligations.lean ====
section
/-! DEFINITION. The statements for the provers, from the numbered rules of the spec. -/

open Sys2Proof Sys2Proof.Machine

/-! ### Encoding -/

/-- R81, R82, R88, R89: words written out from the spec's encodings, and what they decode to. -/
def Obligations.SpecWordsDecodeAsTheSpecSays : Prop :=
  decodeStream [0x02#8, 0x41#8, 0x42#8, 0x43#8, 0xFD#8, 0x00#8]
      = .ok (.copy [0x41#8, 0x42#8, 0x43#8], [0xFD#8, 0x00#8]) ∧
    decodeStream [0xFD#8, 0x00#8] = .ok (.fill 4 0x00#8, []) ∧
    decodeStream [0x80#8, 0x55#8] = .ok (.fill 129 0x55#8, []) ∧
    decodeStream [0xFF#8, 0x80#8] = .ok (.fill 2 0x80#8, []) ∧
    decodeStream [0x00#8, 0xFF#8] = .ok (.copy [0xFF#8], []) ∧
    decodeCommand 0x01#8 = .ok .pack ∧ decodeCommand 0x02#8 = .ok .unpack ∧ decodeCommand 0x03#8 = .ok .encrow ∧
    decodeCommand 0x04#8 = .ok .decrow ∧ decodeCommand 0x05#8 = .ok .encframe ∧
    decodeCommand 0x06#8 = .ok .decframe ∧
    decodeCommand 0x00#8 = .error (.reservedCommand 0x00#8) ∧
    decodeCommand 0x09#8 = .error (.reservedCommand 0x09#8)

/-- Decoding undoes encoding, for every well-formed instruction: a stream opcode in front of any further bytes
(R80, R81, R82), a command byte (R88). -/
def Obligations.DecodeOfEncodeIsTheInstruction : Prop :=
  ∀ i : Instr, i.wf = true →
    (i.isStream = true → ∀ rest, decodeStream (encode i ++ rest) = .ok (i, rest)) ∧
      (i.isStream = false → ∃ v, encode i = [v] ∧ decodeCommand v = .ok i)

/-- Encoding undoes decoding: what is decoded is well-formed, of the right space, and its bytes are the ones that were
read (R80 to R84, R88). -/
def Obligations.EncodeOfDecodeIsTheBytes : Prop :=
  (∀ bs i rest, decodeStream bs = .ok (i, rest) → i.wf = true ∧ i.isStream = true ∧ bs = encode i ++ rest) ∧
    ∀ v i, decodeCommand v = .ok i → i.wf = true ∧ i.isStream = false ∧ encode i = [v]

/-- R83: n = c + 1 when c < 128, n = 257 − c when c ≥ 128, so 1 to 128 and 2 to 129; and the inverse the encoder uses. -/
def Obligations.ControlByteGivesTheCount : Prop :=
  (∀ c : Byte, (c.toNat < 128 → opcodeCount c = c.toNat + 1 ∧ 1 ≤ opcodeCount c ∧ opcodeCount c ≤ 128) ∧
      (128 ≤ c.toNat → opcodeCount c = 257 - c.toNat ∧ 2 ≤ opcodeCount c ∧ opcodeCount c ≤ 129)) ∧
    (∀ lits : List Byte, 1 ≤ lits.length → lits.length ≤ 128 →
      encode (.copy lits) = BitVec.ofNat 8 (lits.length - 1) :: lits ∧
        (BitVec.ofNat 8 (lits.length - 1)).toNat = lits.length - 1) ∧
    ∀ (k : Nat) (v : Byte), 2 ≤ k → k ≤ 129 →
      encode (.fill k v) = [BitVec.ofNat 8 (257 - k), v] ∧ (BitVec.ofNat 8 (257 - k)).toNat = 257 - k

/-- R85: all 256 control bytes are legal, none is a no-op and none faults for its encoding alone: with its operands
present and room for 129 bytes, each one completes and produces at least one byte. -/
def Obligations.EveryControlByteIsALegalOpcode : Prop :=
  (∀ (c : Byte) (rest : List Byte) (op budget : Nat), 128 ≤ rest.length → op + 129 ≤ budget →
      ∃ bytes, decodeOp (c :: rest) 0 op budget = .ok (opcodeSize c, bytes) ∧ bytes.length = opcodeCount c ∧
        1 ≤ bytes.length) ∧
    ∀ (v : Byte) (rest : List Byte) (op budget : Nat), op + 129 ≤ budget →
      decodeOp (0x80#8 :: v :: rest) 0 op budget = .ok (2, List.replicate 129 v)

/-! ### A step -/

/-- R185, R186, R28, R121: between commands, a write of a command code to CMD is one step, and that step is the command's
meaning in the state from which the write has been taken; inside a decoding command (the model's own view, log entry 4) a
step runs the opcode at ip, in DECROW whenever one is there, in DECFRAME when the current row-plane lacks bytes. -/
def Obligations.StepRunsTheDecodedInstruction : Prop :=
  (∀ (s : State) (v : BitVec 32) (rest : List HostAction) (i : Instr), s.dec = none →
    s.host = .writeReg 1 v :: rest → decodeCommand (v.setWidth 8) = .ok i →
    step s = exec i { s with host := rest, reply := none }) ∧
  ∀ (s : State) (d : Decoder) (i : Instr) (rest : List Byte), s.dec = some d →
    (d.geom = none → decodeStream (s.codedRow.drop d.ip) = .ok (i, rest) → step s = exec i s) ∧
      ∀ g, d.geom = some g → d.rows.length < g.rowPlanes → d.row.length < g.rowBytes →
        decodeStream (s.streamBytes.drop d.ip) = .ok (i, rest) → step s = exec i s

/-- The word of a one-byte table row, placed, is what the very next step runs (log entry 9). -/
def Obligations.PlacedWordIsRunByTheNextStep : Prop :=
  ∀ (s : State) (w : Nat) (i : Instr), w < 256 → decodeTableWord 8 w = some i →
    (i.isStream = false → step (s.withFetchWord 8 w) = exec i { s with dec := none, reply := none }) ∧
      (i.isStream = true → step (s.withFetchWord 8 w) = exec i (s.withFetchWord 8 w))

/-! ### The host's actions -/

/-- R230: `Reset`, in any STATUS, writes every register with its reset value and no memory cell. -/
def Obligations.ResetActionClearsRegistersAndKeepsMemories : Prop :=
  ∀ (s : State) (rest : List HostAction), s.dec = none → s.host = .reset :: rest →
    ∃ t, step s = .next t ∧ t.cfgFmt = 0 ∧ t.status = .idle ∧ t.fault = .none ∧ t.rowLen = 0 ∧ t.rowCnt = 0 ∧
      t.crowLen = 0 ∧ t.strLen = 0 ∧ t.faultRow = 0 ∧ t.faultPlane = 0 ∧ t.faultIpos = 0 ∧ t.faultOpos = 0 ∧
      t.faultVal = 0 ∧ t.idx = s.idx ∧ t.pln = s.pln ∧ t.str = s.str ∧ t.rpb = s.rpb ∧ t.cpb = s.cpb ∧
      t.dec = none ∧ t.host = rest ∧ t.draws = s.draws

/-- R38, R231: the state just after the first reset: every register reads 0, and no cell of any memory has been
written. -/
def Obligations.InitialStateIsZeroRegistersAndUnwrittenMemories : Prop :=
  (∀ r, r ≤ 12 → State.reset.readReg r = some 0) ∧ State.reset.dec = none ∧
    ∀ a, State.reset.idx.written a = false ∧ State.reset.pln.written a = false ∧ State.reset.str.written a = false ∧
      State.reset.rpb.written a = false ∧ State.reset.cpb.written a = false

/-- R181, R200: `HostReadReg(r)` returns x[r] (STATUS and FAULT by their codes), 0 for CMD, and changes nothing;
`HostWriteReg(r, v)` outside FAILED stores v mod 2^width in an RW register, does nothing to an RO register, and changes nothing else. -/
def Obligations.RegisterActionsReadAndWriteTheRegister : Prop :=
  (∀ (s : State) (r : Nat) (rest : List HostAction), s.dec = none → s.host = .readReg r :: rest → r ≤ 12 →
    ∃ v, step s = .next { s with host := rest, reply := some v } ∧
      (r = 0 → v = s.cfgFmt.toNat) ∧ (r = 1 → v = 0) ∧
      (r = 2 → v = match s.status with | .idle => 0 | .done => 1 | .failed => 2) ∧
      (r = 3 → v = match s.fault with
        | .none => 0 | .rleOverflow => 1 | .rleTruncated => 2 | .rleTrailing => 3 | .indexRange => 4
        | .badConfig => 5 | .badCommand => 6 | .badLength => 7) ∧
      (r = 4 → v = s.rowLen.toNat) ∧ (r = 5 → v = s.rowCnt.toNat) ∧
      (r = 6 → v = s.crowLen.toNat) ∧ (r = 7 → v = s.strLen.toNat) ∧ (r = 8 → v = s.faultRow.toNat) ∧
      (r = 9 → v = s.faultPlane.toNat) ∧ (r = 10 → v = s.faultIpos.toNat) ∧ (r = 11 → v = s.faultOpos.toNat) ∧
      (r = 12 → v = s.faultVal.toNat)) ∧
  ∀ (s : State) (r : Nat) (v : BitVec 32) (rest : List HostAction), s.dec = none → s.host = .writeReg r v :: rest →
    r ≤ 12 → r ≠ 1 → s.status ≠ .failed →
    ∃ t, step s = .next t ∧
      t = { s with cfgFmt := t.cfgFmt, rowLen := t.rowLen, crowLen := t.crowLen, strLen := t.strLen,
                   host := rest, reply := none } ∧
      t.cfgFmt.toNat = (if r = 0 then v.toNat % 4 else s.cfgFmt.toNat) ∧
      t.rowLen.toNat = (if r = 4 then v.toNat % 256 else s.rowLen.toNat) ∧
      t.crowLen.toNat = (if r = 6 then v.toNat % 256 else s.crowLen.toNat) ∧
      t.strLen.toNat = (if r = 7 then v.toNat % 131072 else s.strLen.toNat)

/-- R182, R59: `HostReadMem(S, a)` returns S[a] and changes nothing; `HostWriteMem(S, a, v)` outside FAILED stores
v mod 256 (v mod 16 for IDX) in S[a] and changes no other cell of any space and no register. -/
def Obligations.MemoryActionsReadAndWriteOneCell : Prop :=
  ∀ (s : State) (sp : Space) (a v : Nat) (rest : List HostAction), s.dec = none → a < sp.capacity →
    (s.host = .readMem sp a :: rest →
      step s = .next { s with host := rest, reply := some (s.readCell sp a) }) ∧
    (s.host = .writeMem sp a v :: rest → s.status ≠ .failed →
      ∃ t, step s = .next t ∧ t.readCell sp a = (if sp = .idx then v % 16 else v % 256) ∧
        (∀ sp' b, (sp', b) ≠ (sp, a) → t.readCell sp' b = s.readCell sp' b) ∧
        t = { s with idx := t.idx, pln := t.pln, str := t.str, rpb := t.rpb, cpb := t.cpb,
                     host := rest, reply := none })

/-- R183: an action whose register number is above 12, or whose address is at or above the capacity of its space, is no
step of the machine, in any STATUS (FAILED too: log entry 7). -/
def Obligations.ActionsThatNameNothingAreRefused : Prop :=
  ∀ (s : State) (rest : List HostAction), s.dec = none →
    (∀ r, 12 < r → (s.host = .readReg r :: rest → step s = .refused (.noSuchRegister r)) ∧
      ∀ v, s.host = .writeReg r v :: rest → step s = .refused (.noSuchRegister r)) ∧
    ∀ sp a, sp.capacity ≤ a → (s.host = .readMem sp a :: rest → step s = .refused (.noSuchCell sp a)) ∧
      ∀ v, s.host = .writeMem sp a v :: rest → step s = .refused (.noSuchCell sp a)

/-- R184: in FAILED, reads and `Reset` work as always; every register write, to CMD too, and every memory write is a
step that changes nothing. -/
def Obligations.FailedIgnoresEveryWrite : Prop :=
  ∀ (s : State) (rest : List HostAction), s.dec = none → s.status = .failed →
    (∀ r v, r ≤ 12 → s.host = .writeReg r v :: rest → step s = .next { s with host := rest, reply := none }) ∧
    (∀ sp a v, a < sp.capacity → s.host = .writeMem sp a v :: rest →
      step s = .next { s with host := rest, reply := none }) ∧
    (∀ r, r ≤ 12 → s.host = .readReg r :: rest →
      step s = .next { s with host := rest, reply := s.readReg r }) ∧
    (∀ sp a, a < sp.capacity → s.host = .readMem sp a :: rest →
      step s = .next { s with host := rest, reply := some (s.readCell sp a) }) ∧
    (s.host = .reset :: rest → ∃ t, step s = .next t ∧ t.status = .idle)

/-- R211, R212: no step but `Reset` leaves FAILED, and none changes FAULT or a context register, or any memory, then. -/
def Obligations.OnlyResetLeavesFailed : Prop :=
  ∀ s t : State, s.dec = none → s.status = .failed → step s = .next t →
    (∃ rest, s.host = .reset :: rest) ∨ t = { s with host := t.host, reply := t.reply }

/-- R187, R89: a value written to CMD outside FAILED whose byte is 0x00 or 0x07 to 0xFF faults BAD_COMMAND with that
byte in FAULT_VAL, and nothing else changes. -/
def Obligations.ReservedCommandCodesFault : Prop :=
  ∀ (s : State) (v : BitVec 32) (rest : List HostAction), s.dec = none → s.host = .writeReg 1 v :: rest →
    s.status ≠ .failed → (v.toNat % 256 = 0 ∨ 7 ≤ v.toNat % 256) →
    step s = .next { s with status := .failed, fault := .badCommand, faultRow := 0, faultPlane := 0, faultIpos := 0,
                            faultOpos := 0, faultVal := BitVec.ofNat 17 (v.toNat % 256), host := rest,
                            reply := none }

/-! ### Taking a fault -/

/-- R206, R29: what `raise` does to the registers: STATUS, FAULT and the five context registers, all together, each
value as it stands when it fits its register; nothing else. -/
def Obligations.RaiseWritesExactlyTheFaultRegisters : Prop :=
  ∀ (s : State) (f : FaultRecord), f.row < 2 ^ 9 → f.plane < 2 ^ 2 → f.ipos < 2 ^ 17 → f.opos < 2 ^ 8 →
    f.val < 2 ^ 17 →
    (s.raise f).status = .failed ∧ (s.raise f).fault = f.cause ∧ (s.raise f).faultRow.toNat = f.row ∧
      (s.raise f).faultPlane.toNat = f.plane ∧ (s.raise f).faultIpos.toNat = f.ipos ∧
      (s.raise f).faultOpos.toNat = f.opos ∧ (s.raise f).faultVal.toNat = f.val ∧
      s = { s.raise f with status := s.status, fault := s.fault, faultRow := s.faultRow, faultPlane := s.faultPlane,
                           faultIpos := s.faultIpos, faultOpos := s.faultOpos, faultVal := s.faultVal }

/-- R188: PACK, UNPACK, ENCFRAME and DECFRAME issued outside FAILED while CFG_FMT is 3 fault BAD_CONFIG with FAULT_VAL 3;
no memory changes. -/
def Obligations.ReservedGeometryFaults : Prop :=
  ∀ (s : State) (i : Instr), i = .pack ∨ i = .unpack ∨ i = .encframe ∨ i = .decframe → s.status ≠ .failed →
    s.cfgFmt = 3 →
    exec i s = .next { s with status := .failed, fault := .badConfig, faultRow := 0, faultPlane := 0, faultIpos := 0,
                              faultOpos := 0, faultVal := 3 }

/-- R186, R191: a command is one step that always ends, and outside FAILED it ends DONE with FAULT as it was, or FAILED
with a cause in FAULT. -/
def Obligations.EveryCommandEndsDoneOrFailed : Prop :=
  ∀ (s : State) (i : Instr), i.isStream = false → s.status ≠ .failed →
    ∃ t, exec i s = .next t ∧
      ((t.status = .done ∧ t.fault = s.fault) ∨ (t.status = .failed ∧ t.fault ≠ .none))

/-! ### The opcode step: COPY and FILL -/

/-- R121, R122, R123, R125: `decodeOp` at a control byte c of length n: RLE_OVERFLOW on c alone when op + n exceeds the
budget; else RLE_TRUNCATED when the operands are cut off; else a COPY's n literals verbatim with ip past them, or a
FILL's n copies of its value byte with ip past it. -/
def Obligations.DecodeOpFollowsTheControlByte : Prop :=
  ∀ (inp : List Byte) (ip op budget : Nat) (h : ip < inp.length),
    (op + opcodeCount inp[ip] > budget →
      decodeOp inp ip op budget = .error ⟨.rleOverflow, ip, op, opcodeCount inp[ip]⟩) ∧
    (op + opcodeCount inp[ip] ≤ budget →
      (inp[ip].toNat < 128 → inp.length < ip + 1 + opcodeCount inp[ip] →
        decodeOp inp ip op budget = .error ⟨.rleTruncated, ip, op, opcodeCount inp[ip]⟩) ∧
      (inp[ip].toNat < 128 → ip + 1 + opcodeCount inp[ip] ≤ inp.length →
        decodeOp inp ip op budget =
          .ok (ip + 1 + opcodeCount inp[ip], (inp.drop (ip + 1)).take (opcodeCount inp[ip]))) ∧
      (128 ≤ inp[ip].toNat → inp.length < ip + 2 →
        decodeOp inp ip op budget = .error ⟨.rleTruncated, ip, op, opcodeCount inp[ip]⟩) ∧
      (128 ≤ inp[ip].toNat → (h' : ip + 1 < inp.length) →
        decodeOp inp ip op budget = .ok (ip + 2, List.replicate (opcodeCount inp[ip]) inp[ip + 1])))

/-- R122, R123: COPY in a running decoder, when its literals fit: they are appended to the row-plane in order and ip moves
by one plus their number. FILL, when its repeats fit: the byte is appended n times and ip moves by two. Nothing else
changes. With no decoder running there is no such step (R90, R120; the refusal is the model's own, log entry 4). -/
def Obligations.StreamOpcodesAppendTheirBytes : Prop :=
  (∀ (s : State) (d : Decoder), s.dec = some d →
    (∀ lits : List Byte, d.row.length + lits.length ≤ d.budget s →
      exec (.copy lits) s =
        .next { s with dec := some { d with ip := d.ip + 1 + lits.length, row := d.row ++ lits } }) ∧
    ∀ (n : Nat) (v : Byte), d.row.length + n ≤ d.budget s →
      exec (.fill n v) s =
        .next { s with dec := some { d with ip := d.ip + 2, row := d.row ++ List.replicate n v } }) ∧
  ∀ (s : State) (lits : List Byte) (n : Nat) (v : Byte), s.dec = none →
    exec (.copy lits) s = .refused .opcodeOutsideDecoder ∧ exec (.fill n v) s = .refused .opcodeOutsideDecoder

/-- R121, R207, R208: an opcode that passes the budget ends a DECROW in RLE_OVERFLOW with row 0, plane 0, its offset, the
bytes already there and its length; RPB and ROW_CNT become unspecified, and nothing else changes. Inside a DECFRAME row
and plane are those of the row-plane, and PLN, RPB and CPB become unspecified (the inside of a command is the model's own
view, log entry 4). -/
def Obligations.OpcodeOverBudgetFaults : Prop :=
  ∀ (s : State) (d : Decoder) (i : Instr) (n : Nat),
    (∃ lits, i = .copy lits ∧ n = lits.length) ∨ (∃ v, i = .fill n v) → s.dec = some d → d.budget s < d.row.length + n →
    ∃ t, exec i s = .next t ∧
      (d.geom = none →
        t.rpb.freshFrom s.draws = true ∧ (∃ k, s.draws ≤ k ∧ t.rowCnt = Config.freeValue 8 k 0) ∧
        t = { s.raise ⟨.rleOverflow, 0, 0, d.ip, d.row.length, n⟩ with
                rpb := t.rpb, rowCnt := t.rowCnt, dec := none, draws := t.draws }) ∧
      ∀ g, d.geom = some g →
        t.pln.freshFrom s.draws = true ∧ t.rpb.freshFrom s.draws = true ∧ t.cpb.freshFrom s.draws = true ∧
        t = { s.raise ⟨.rleOverflow, d.rows.length / g.planes, d.rows.length % g.planes, d.ip, d.row.length, n⟩ with
                pln := t.pln, rpb := t.rpb, cpb := t.cpb, dec := none, draws := t.draws }

/-! ### The encoder's and the decoder's functions -/

/-- R141: `runLen` is the length of the maximal run of equal bytes a list begins with. -/
def Obligations.RunLenIsTheMaximalRun : Prop :=
  ∀ (b : Byte) (t : List Byte), 1 ≤ runLen (b :: t) ∧ runLen (b :: t) ≤ (b :: t).length ∧
    (b :: t).take (runLen (b :: t)) = List.replicate (runLen (b :: t)) b ∧
    ∀ h : runLen (b :: t) < (b :: t).length, (b :: t)[runLen (b :: t)] ≠ b

/-- R144: `flushLit` cuts greedily, full chunks of 128 first; the number of chunks is ceil(len / 128). -/
def Obligations.FlushLitCutsGreedilyAt128 : Prop :=
  flushLit [] = [] ∧
    (∀ l : List Byte, l ≠ [] →
      flushLit l = .copy (l.take (min 128 l.length)) :: flushLit (l.drop (min 128 l.length))) ∧
    ∀ l : List Byte, (flushLit l).length = (l.length + 127) / 128

/-- R145: `emitFill` takes 128 when exactly 130 bytes of the run remain, 129 when more than 129 do, else all that
remain; from r ≥ 2 every chunk is 2 to 129 long and they add up to r. -/
def Obligations.EmitFillSplits130As128And2 : Prop :=
  (∀ (v : Byte) (r : Nat), 0 < r →
      emitFill v r =
        .fill (if r = 130 then 128 else if 129 < r then 129 else r) v ::
          emitFill v (r - if r = 130 then 128 else if 129 < r then 129 else r)) ∧
    (∀ v : Byte, emitFill v 0 = []) ∧
    ∀ (v : Byte) (r : Nat), 2 ≤ r → ∃ ks : List Nat, emitFill v r = ks.map (fun k => .fill k v) ∧ ks.sum = r ∧
      ∀ k ∈ ks, 2 ≤ k ∧ k ≤ 129

/-- R142: `rleEncode` is its scan, from position 0 with no pending literals; the scan, with pending literals `pend` before the byte `b`: at a run of 2 or more the
literals are flushed, the run is emitted and the scan resumes after it; a single byte joins the literals; at the end the
literals are flushed. It holds with any fuel that is at least the number of bytes left. -/
def Obligations.EncoderScanFollowsItsRule : Prop :=
  (∀ s : List Byte, rleEncode s = assemble (encodeScan s.length [] s)) ∧
    (∀ (fuel : Nat) (pend : List Byte), encodeScan fuel pend [] = flushLit pend) ∧
    ∀ (fuel : Nat) (pend : List Byte) (b : Byte) (t : List Byte), t.length < fuel →
      (2 ≤ runLen (b :: t) → encodeScan fuel pend (b :: t) =
        flushLit pend ++ emitFill b (runLen (b :: t)) ++
          encodeScan ((b :: t).drop (runLen (b :: t))).length [] ((b :: t).drop (runLen (b :: t)))) ∧
      (runLen (b :: t) < 2 → encodeScan fuel pend (b :: t) = encodeScan t.length (pend ++ [b]) t)

/-- R124: `rleDecode` runs `decodeOp` from ip = 0 until the input is exhausted. Its loop, at stream pointer ip with output
`out`, with any fuel that is at least the number of bytes left. -/
def Obligations.RowDecoderLoopFollowsItsRule : Prop :=
  (∀ (inp : List Byte) (budget : Nat), rleDecode inp budget = rleDecodeFrom inp budget inp.length 0 []) ∧
    ∀ (inp : List Byte) (budget fuel ip : Nat) (out : List Byte), inp.length ≤ ip + fuel →
      rleDecodeFrom inp budget fuel ip out =
        if ip < inp.length then
          match decodeOp inp ip out.length budget with
          | .error e => .error e
          | .ok (ip', bytes) => rleDecodeFrom inp budget (inp.length - ip') ip' (out ++ bytes)
        else .ok out

/-- R146: the threshold is 2: a run of exactly two is sent as a FILL, even between literals. -/
def Obligations.TwoEqualBytesBecomeAFill : Prop :=
  rleEncode [0x01#8, 0x02#8, 0x02#8, 0x03#8] = [0x00#8, 0x01#8, 0xFF#8, 0x02#8, 0x00#8, 0x03#8] ∧
    (∀ v : Byte, rleEncode [v, v] = [0xFF#8, v]) ∧
    ∀ u v w : Byte, u ≠ v → v ≠ w → rleEncode [u, v, v, w] = [0x00#8, u, 0xFF#8, v, 0x00#8, w]

/-- R152: the empty input encodes to the empty output and decodes to the empty output under every budget; DECROW with
CROW_LEN = 0 succeeds with ROW_CNT = 0. -/
def Obligations.EmptyInputEncodesAndDecodesToNothing : Prop :=
  rleEncode [] = [] ∧ (∀ b, rleDecode [] b = .ok []) ∧
    ∀ s : State, s.status ≠ .failed → 1 ≤ s.rowLen.toNat → s.rowLen.toNat ≤ 80 → s.crowLen = 0 →
      ∃ t, exec .decrow s = .next t ∧ t.status = .done ∧ t.rowCnt = 0 ∧ t.rpb.sameReads s.rpb

/-- R147: for every byte list s and every budget b ≥ len(s), decoding its encoding gives s with no fault; with a smaller
budget the decode faults RLE_OVERFLOW. -/
def Obligations.RowDecodeOfRowEncodeIsTheRow : Prop :=
  ∀ (s : List Byte) (b : Nat),
    (s.length ≤ b → rleDecode (rleEncode s) b = .ok s) ∧
      (b < s.length → ∃ e, rleDecode (rleEncode s) b = .error e ∧ e.cause = .rleOverflow)

/-- R148: the output of the encoder is at most twice its input; for 1 to 128 bytes it is at least 2 and at most
(4n + 2) / 3 bytes (2, 3, 4, 6, 54, 106, 107 for n = 1, 2, 3, 4, 40, 79, 80), and the pattern single, pair, single, pair
reaches that. The closed form is the model's reading of the table of R148 (log entry 10). -/
def Obligations.EncodedLengthIsBounded : Prop :=
  (∀ s : List Byte, (rleEncode s).length ≤ 2 * s.length) ∧
    (∀ s : List Byte, 1 ≤ s.length → s.length ≤ 128 →
      2 ≤ (rleEncode s).length ∧ (rleEncode s).length ≤ (4 * s.length + 2) / 3) ∧
    ∀ n, 1 ≤ n → n ≤ 128 →
      (rleEncode ((List.range n).map fun j => if j % 3 = 0 then 0x01#8 else 0x02#8)).length = (4 * n + 2) / 3

/-- R151: every opcode of the encoder is legal (a COPY of 1 to 128, a FILL of 2 to 129), no two neighbours inside a COPY
are equal, and consecutive opcodes are as the rule says. -/
def Obligations.EncoderOutputHasLegalShape : Prop :=
  ∀ s : List Byte,
    (∀ i ∈ rleProgram s, i.wf = true ∧ i.isStream = true) ∧
    (∀ lits, Instr.copy lits ∈ rleProgram s → ∀ k, (h : k + 1 < lits.length) → lits[k] ≠ lits[k + 1]) ∧
    ∀ k, (h : k + 1 < (rleProgram s).length) →
      legalNeighbours (rleProgram s)[k] (rleProgram s)[k + 1] = true

/-! ### ENCROW and DECROW -/

/-- R149, R150: ENCROW outside FAILED: BAD_LENGTH when ROW_LEN is outside 1 to 80; else CPB[0..m) is the encoding of
RPB[0..ROW_LEN), CROW_LEN is m, 2 to 107, STATUS is DONE, and nothing else changes. -/
def Obligations.EncrowFollowsItsRule : Prop :=
  ∀ s : State, s.status ≠ .failed →
    (s.rowLen.toNat < 1 ∨ 80 < s.rowLen.toNat →
      exec .encrow s = .next (s.raise ⟨.badLength, 0, 0, 0, 0, s.rowLen.toNat⟩)) ∧
    (1 ≤ s.rowLen.toNat → s.rowLen.toNat ≤ 80 →
      ∃ t, exec .encrow s = .next t ∧
        t.cpb.holds s.cpb (rleEncode (s.rpb.readRange s.rowLen.toNat)) ∧
        t.crowLen.toNat = (rleEncode (s.rpb.readRange s.rowLen.toNat)).length ∧
        2 ≤ t.crowLen.toNat ∧ t.crowLen.toNat ≤ 107 ∧
        t = { s with cpb := t.cpb, crowLen := t.crowLen, status := .done })

/-- R127: DECROW outside FAILED: BAD_LENGTH for ROW_LEN, then for CROW_LEN; the decoder's fault, with RPB and ROW_CNT
unspecified; or RPB[0..produced) and ROW_CNT from CPB[0..CROW_LEN), at most ROW_LEN bytes. Nothing else changes. That RPB
and ROW_CNT are unchanged by a BAD_LENGTH is the model's reading of R205, R208 and D9 against the general words of R127 and
R206 (DEDUCED, log entry 3). -/
def Obligations.DecrowFollowsItsRule : Prop :=
  ∀ s : State, s.status ≠ .failed →
    (s.rowLen.toNat < 1 ∨ 80 < s.rowLen.toNat →
      exec .decrow s = .next (s.raise ⟨.badLength, 0, 0, 0, 0, s.rowLen.toNat⟩)) ∧
    (1 ≤ s.rowLen.toNat → s.rowLen.toNat ≤ 80 → 128 < s.crowLen.toNat →
      exec .decrow s = .next (s.raise ⟨.badLength, 0, 0, 0, 0, s.crowLen.toNat⟩)) ∧
    (1 ≤ s.rowLen.toNat → s.rowLen.toNat ≤ 80 → s.crowLen.toNat ≤ 128 →
      (∀ e, rleDecode (s.cpb.readRange s.crowLen.toNat) s.rowLen.toNat = .error e →
        ∃ t, exec .decrow s = .next t ∧ (e.cause = .rleOverflow ∨ e.cause = .rleTruncated) ∧
          t.rpb.freshFrom s.draws = true ∧ (∃ k, s.draws ≤ k ∧ t.rowCnt = Config.freeValue 8 k 0) ∧
          t = { s.raise ⟨e.cause, 0, 0, e.ipos, e.opos, e.val⟩ with
                  rpb := t.rpb, rowCnt := t.rowCnt, draws := t.draws }) ∧
      ∀ r, rleDecode (s.cpb.readRange s.crowLen.toNat) s.rowLen.toNat = .ok r →
        ∃ t, exec .decrow s = .next t ∧ t.rpb.holds s.rpb r ∧ t.rowCnt.toNat = r.length ∧
          r.length ≤ s.rowLen.toNat ∧
          t = { s with rpb := t.rpb, rowCnt := t.rowCnt, status := .done })

/-- R149 (last corner case), R147: ENCROW then DECROW with ROW_LEN unchanged restores RPB[0..ROW_LEN) and sets ROW_CNT to
ROW_LEN. -/
def Obligations.DecrowUndoesEncrow : Prop :=
  ∀ s : State, s.status ≠ .failed → 1 ≤ s.rowLen.toNat → s.rowLen.toNat ≤ 80 →
    ∃ t u, exec .encrow s = .next t ∧ exec .decrow t = .next u ∧ u.status = .done ∧ u.rowCnt = s.rowLen ∧
      u.rpb.sameReads s.rpb

/-- DECROW, one atomic step, ends in the very state that running its stream opcode by opcode from its beginning reaches
(R127, R124, R186; the inside of a command is the model's own view, log entry 4). -/
def Obligations.DecrowIsItsOpcodesOneByOne : Prop :=
  ∀ s : State, s.dec = none → s.status ≠ .failed → 1 ≤ s.rowLen.toNat → s.rowLen.toNat ≤ 80 →
    s.crowLen.toNat ≤ 128 → ∃ k, Sys2Proof.core.run k s.beginDecrow = exec .decrow s

/-! ### The bitplane packer -/

/-- R5, R6, R7, R8, R21: the geometries CFG_FMT selects and their derived parameters. -/
def Obligations.GeometriesAreTheThreeOfTheFormats : Prop :=
  geometryOf 0 = some ⟨320, 200, 2⟩ ∧ geometryOf 1 = some ⟨640, 200, 1⟩ ∧ geometryOf 2 = some ⟨640, 400, 0⟩ ∧
    geometryOf 3 = none ∧
    ([0, 1, 2].map fun c => (geometryOf c).map fun g =>
        [g.planes, g.tiles, g.rowBytes, g.rowPlanes, g.rawBytes, g.cellCount, g.w % 16])
      = [some [4, 20, 40, 800, 32000, 64000, 0], some [2, 40, 80, 400, 32000, 128000, 0],
         some [1, 40, 80, 400, 32000, 256000, 0]]

/-- R56, R58, R109: the offsets of the plane words under each geometry; every word offset is even and both bytes of the
word lie inside the plane bytes. -/
def Obligations.WordOffsetsAreEvenAndInside : Prop :=
  (∀ y t z : Nat, geometryPI1.woff y t z = 160 * y + 8 * t + 2 * z ∧
    geometryPI2.woff y t z = 160 * y + 4 * t + 2 * z ∧ geometryPI3.woff y t 0 = 80 * y + 2 * t) ∧
  ∀ (g : Geometry) (y t z : Nat), g.wf = true → y < g.h → t < g.tiles → z < g.planes →
    g.woff y t z = ((y * g.tiles + t) * g.planes + z) * 2 ∧ g.woff y t z % 2 = 0 ∧
      g.woff y t z + 1 < g.rawBytes

/-- R51, R56, R57, R101: bit z of the index of pixel (x, y) is bit 15 − k of the big-endian word at woff(y, t, z), with
t = x div 16 and k = x mod 16: bit 7 − k of its first byte for k ≤ 7, bit 15 − k of its second for k ≥ 8. -/
def Obligations.PackPutsEveryBitInItsPlace : Prop :=
  ∀ (g : Geometry) (m : List IndexCell), g.wf = true → m.length = g.cellCount →
    (pack g m).length = g.rawBytes ∧
    ∀ x y z, x < g.w → y < g.h → z < g.planes →
      (wordAt (pack g m) (g.woff y (x / 16) z)).getLsbD (15 - x % 16) = (m.getD (y * g.w + x) 0).getLsbD z ∧
      (x % 16 ≤ 7 → ((pack g m).getD (g.woff y (x / 16) z) 0).getLsbD (7 - x % 16)
        = (m.getD (y * g.w + x) 0).getLsbD z) ∧
      (8 ≤ x % 16 → ((pack g m).getD (g.woff y (x / 16) z + 1) 0).getLsbD (15 - x % 16)
        = (m.getD (y * g.w + x) 0).getLsbD z)

/-- R105: `unpack` gives W · H indices, each below 2^P, and bit z of the index of pixel (x, y) is bit 15 − k of the word
at woff(y, t, z). -/
def Obligations.UnpackTakesEveryBitFromItsPlace : Prop :=
  ∀ (g : Geometry) (d : List Byte), g.wf = true → d.length = g.rawBytes →
    (unpack g d).length = g.cellCount ∧ (∀ v ∈ unpack g d, v.toNat < 2 ^ g.planes) ∧
    ∀ x y z, x < g.w → y < g.h → z < g.planes →
      ((unpack g d).getD (y * g.w + x) 0).getLsbD z
        = (wordAt d (g.woff y (x / 16) z)).getLsbD (15 - x % 16)

/-- R107: `unpack` undoes `pack` on every index matrix with all values below 2^P, and `pack` undoes `unpack` on every
byte list of the right length. -/
def Obligations.PackAndUnpackAreInverse : Prop :=
  ∀ g : Geometry, g.wf = true →
    (∀ m : List IndexCell, m.length = g.cellCount → (∀ v ∈ m, v.toNat < 2 ^ g.planes) →
      unpack g (pack g m) = m) ∧
    ∀ d : List Byte, d.length = g.rawBytes → pack g (unpack g d) = d

/-- R102, R103: PACK outside FAILED: BAD_CONFIG when CFG_FMT is 3; under a geometry, INDEX_RANGE at the first used cell in row-major order that is at or
above 2^P, with its y, x and value and no memory changed; with every used cell below 2^P, PLN is the packed matrix,
STATUS is DONE and nothing else changes. -/
def Obligations.PackCommandFollowsItsRule : Prop :=
  ∀ s : State, s.status ≠ .failed →
    (s.cfgFmt = 3 → exec .pack s = .next (s.raise ⟨.badConfig, 0, 0, 0, 0, 3⟩)) ∧
    ∀ g : Geometry, geometryOf s.cfgFmt = some g →
    (∀ x y, x < g.w → y < g.h → 2 ^ g.planes ≤ (s.idx.read (y * g.w + x)).toNat →
      (∀ a, a < y * g.w + x → (s.idx.read a).toNat < 2 ^ g.planes) →
      exec .pack s = .next (s.raise ⟨.indexRange, y, 0, x, 0, (s.idx.read (y * g.w + x)).toNat⟩)) ∧
    ((∀ a, a < g.w * g.h → (s.idx.read a).toNat < 2 ^ g.planes) →
      ∃ t, exec .pack s = .next t ∧ t.pln.holds s.pln (pack g (s.idx.readRange (g.w * g.h))) ∧
        (pack g (s.idx.readRange (g.w * g.h))).length = 32000 ∧
        t = { s with pln := t.pln, status := .done })

/-- R106: UNPACK outside FAILED: BAD_CONFIG when CFG_FMT is 3; under a geometry it cannot fault: IDX[0..W·H) is the unpacked matrix, the cells above keep
their values, STATUS is DONE and nothing else changes. -/
def Obligations.UnpackCommandFollowsItsRule : Prop :=
  ∀ s : State, s.status ≠ .failed →
    (s.cfgFmt = 3 → exec .unpack s = .next (s.raise ⟨.badConfig, 0, 0, 0, 0, 3⟩)) ∧
    ∀ g : Geometry, geometryOf s.cfgFmt = some g →
    ∃ t, exec .unpack s = .next t ∧ t.idx.holds s.idx (unpack g (s.pln.readRange 32000)) ∧
      (unpack g (s.pln.readRange 32000)).length = g.w * g.h ∧
      (∀ a, a < g.w * g.h → (t.idx.read a).toNat < 2 ^ g.planes) ∧
      t = { s with idx := t.idx, status := .done }

/-- R106, R107: a PACK that follows an UNPACK under the same CFG_FMT cannot fault, and leaves PLN as it was. -/
def Obligations.PackUndoesUnpack : Prop :=
  ∀ (s : State) (g : Geometry), s.status ≠ .failed → geometryOf s.cfgFmt = some g →
    ∃ t u, exec .unpack s = .next t ∧ exec .pack t = .next u ∧ u.status = .done ∧ u.pln.sameReads s.pln

/-! ### The frame codec -/

/-- R161: the row-planes partition the plane bytes: every offset is rpaddr(y, z, j) for exactly one (y, z, j). `scatter`
sets byte rpaddr(y, z, j) to R[j] for each j below B and leaves every other byte alone; `gather` then gives R back. -/
def Obligations.ScatterWritesOneCellOfThePartition : Prop :=
  (∀ g : Geometry, g.wf = true →
    (∀ a, a < g.rawBytes → ∃ y z j, y < g.h ∧ z < g.planes ∧ j < g.rowBytes ∧ g.rpaddr y z j = a ∧
      ∀ y' z' j', y' < g.h → z' < g.planes → j' < g.rowBytes → g.rpaddr y' z' j' = a →
        y' = y ∧ z' = z ∧ j' = j) ∧
    ∀ y z j, y < g.h → z < g.planes → j < g.rowBytes → g.rpaddr y z j < g.rawBytes) ∧
  ∀ (g : Geometry) (d r : List Byte) (y z : Nat), g.wf = true → d.length = g.rawBytes → r.length = g.rowBytes →
    y < g.h → z < g.planes →
    (scatter g d y z r).length = d.length ∧
    (∀ j, j < g.rowBytes → (scatter g d y z r).getD (g.rpaddr y z j) 0 = r.getD j 0) ∧
    (∀ a, (∀ j, j < g.rowBytes → g.rpaddr y z j ≠ a) → (scatter g d y z r).getD a 0 = d.getD a 0) ∧
    gather g (scatter g d y z r) y z = r

/-- R160, R57 (past the end of a list shorter than the geometry's size both sides read 0, the model's choice, log entry 14):
byte j of a gathered row-plane is D[rpaddr(y, z, j)], and of a packed matrix it holds the plane-z bits of
pixels 8j to 8j + 7 of the scanline, the leftmost in bit 7; under PI3 a row-plane is contiguous. -/
def Obligations.RowPlaneIsTheScanlineOfOneBit : Prop :=
  (∀ (g : Geometry) (d : List Byte) (y z j : Nat), j < g.rowBytes →
      (gather g d y z).length = g.rowBytes ∧ (gather g d y z).getD j 0 = d.getD (g.rpaddr y z j) 0 ∧
        g.rpaddr y z j = ((y * g.tiles + j / 2) * g.planes + z) * 2 + j % 2) ∧
    (∀ (g : Geometry) (m : List IndexCell) (y z x : Nat), g.wf = true → m.length = g.cellCount → x < g.w →
      y < g.h → z < g.planes →
      ((gather g (pack g m) y z).getD (x / 8) 0).getLsbD (7 - x % 8) = (m.getD (y * g.w + x) 0).getLsbD z) ∧
    ∀ y j, geometryPI3.rpaddr y 0 j = 80 * y + j

/-- R162, R163, R167, R170, R171: a frame is encoded row-plane by row-plane, number q being (q div P, q mod P); it is
decoded in the same order with one stream pointer: the inner loop (with any fuel that is at least the number of bytes
missing) stops at B bytes, faults RLE_TRUNCATED at the end of the input and passes on a fault of the opcode step; a fault
carries the scanline and the plane; input left at the end is RLE_TRAILING; and the frame is made of the decoded
row-planes. -/
def Obligations.FrameLoopsFollowTheirRules : Prop :=
  (∀ (g : Geometry) (d : List Byte),
    encodeFrame g d
      = (List.range g.rowPlanes).flatMap fun q => rleEncode (gather g d (q / g.planes) (q % g.planes))) ∧
  (∀ (g : Geometry) (inp : List Byte),
    decodeFrame g inp =
      match decodeRowPlanes g inp g.rowPlanes 0 0 with
      | .error f => .error f
      | .ok (ip, rows) =>
        if ip < inp.length then .error ⟨.rleTrailing, g.h, 0, ip, 0, 0⟩ else .ok (assemblePlanes g rows)) ∧
  (∀ (g : Geometry) (inp : List Byte) (q ip : Nat),
    decodeRowPlanes g inp 0 q ip = .ok (ip, []) ∧
    ∀ n, decodeRowPlanes g inp (n + 1) q ip =
      match decodeRowPlane g inp g.rowBytes ip [] with
      | .error e => .error ⟨e.cause, q / g.planes, q % g.planes, e.ipos, e.opos, e.val⟩
      | .ok (ip', row) =>
        match decodeRowPlanes g inp n (q + 1) ip' with
        | .error f => .error f
        | .ok (ip'', rows) => .ok (ip'', row :: rows)) ∧
  (∀ (g : Geometry) (inp : List Byte) (fuel ip : Nat) (row : List Byte), g.rowBytes ≤ row.length + fuel →
    decodeRowPlane g inp fuel ip row =
      if row.length < g.rowBytes then
        if inp.length ≤ ip then .error ⟨.rleTruncated, ip, row.length, 0⟩
        else
          match decodeOp inp ip row.length g.rowBytes with
          | .error e => .error e
          | .ok (ip', bytes) =>
            decodeRowPlane g inp (g.rowBytes - (row ++ bytes).length) ip' (row ++ bytes)
      else .ok (ip, row)) ∧
  ∀ (g : Geometry) (rows : List (List Byte)), g.wf = true → rows.length = g.rowPlanes →
    (∀ r ∈ rows, r.length = g.rowBytes) →
    (assemblePlanes g rows).length = g.rawBytes ∧
    ∀ q, (h : q < rows.length) → gather g (assemblePlanes g rows) (q / g.planes) (q % g.planes) = rows[q]

/-- R167, R168: a row-plane is complete at exactly B bytes, and an opcode that would take it past B is an RLE_OVERFLOW:
an opcode never spans row-planes. -/
def Obligations.AnOpcodeNeverSpansRowPlanes : Prop :=
  ∀ (g : Geometry) (inp : List Byte) (ip : Nat) (row : List Byte), row.length ≤ g.rowBytes →
    (∀ ip' row', decodeRowPlane g inp (g.rowBytes - row.length) ip row = .ok (ip', row') →
      row'.length = g.rowBytes ∧ row <+: row' ∧ ip ≤ ip') ∧
    ∀ h : ip < inp.length, row.length < g.rowBytes → g.rowBytes - row.length < opcodeCount inp[ip] →
      decodeRowPlane g inp (g.rowBytes - row.length) ip row
        = .error ⟨.rleOverflow, ip, row.length, opcodeCount inp[ip]⟩

/-- R172: decoding the encoding of a frame gives the frame, with no fault. -/
def Obligations.FrameDecodeOfFrameEncodeIsTheFrame : Prop :=
  ∀ (g : Geometry) (d : List Byte), g.wf = true → d.length = g.rawBytes →
    decodeFrame g (encodeFrame g d) = .ok d

/-- R170, R171, R162: bytes left after the last row-plane of a stream are RLE_TRAILING, with row H, plane 0 and the offset
of the first of them, and are not examined; a stream of only the first q row-planes of a frame is RLE_TRUNCATED at
row-plane q, (q div P, q mod P), with the length of the stream and no byte of that row-plane. -/
def Obligations.StreamsTooLongOrTooShortFault : Prop :=
  ∀ (g : Geometry) (d : List Byte), g.wf = true → d.length = g.rawBytes →
    (∀ extra : List Byte, extra ≠ [] →
      decodeFrame g (encodeFrame g d ++ extra)
        = .error ⟨.rleTrailing, g.h, 0, (encodeFrame g d).length, 0, 0⟩) ∧
    ∀ q, q < g.rowPlanes →
      decodeFrame g ((List.range q).flatMap fun p => rleEncode (gather g d (p / g.planes) (p % g.planes)))
        = .error ⟨.rleTruncated, q / g.planes, q % g.planes,
            ((List.range q).flatMap fun p => rleEncode (gather g d (p / g.planes) (p % g.planes))).length, 0, 0⟩

/-- R165, R173: a frame of 32000 equal bytes encodes to N two-byte FILLs of B, the shortest stream. -/
def Obligations.UniformFrameIsOneFillPerRowPlane : Prop :=
  ∀ (g : Geometry) (v : Byte), g.wf = true → g.rowBytes ≤ 129 →
    encodeFrame g (List.replicate g.rawBytes v)
      = (List.replicate g.rowPlanes [BitVec.ofNat 8 (257 - g.rowBytes), v]).flatten ∧
    ∀ d : List Byte, 2 * g.rowPlanes ≤ (encodeFrame g d).length

/-- R165, R166: ENCFRAME outside FAILED: BAD_CONFIG when CFG_FMT is 3; under a geometry it cannot fault: STR[0..m) is the encoded frame, STR_LEN is m, 1600 to
43200 under PI1 and 800 to 42800 under PI2 and PI3, RPB and CPB are unspecified, STATUS is DONE and nothing else
changes. -/
def Obligations.EncframeFollowsItsRule : Prop :=
  ∀ s : State, s.status ≠ .failed →
    (s.cfgFmt = 3 → exec .encframe s = .next (s.raise ⟨.badConfig, 0, 0, 0, 0, 3⟩)) ∧
    ∀ g : Geometry, geometryOf s.cfgFmt = some g →
    ∃ t, exec .encframe s = .next t ∧
      t.str.holds s.str (encodeFrame g (s.pln.readRange 32000)) ∧
      t.strLen.toNat = (encodeFrame g (s.pln.readRange 32000)).length ∧
      (s.cfgFmt = 0 → 1600 ≤ t.strLen.toNat ∧ t.strLen.toNat ≤ 43200) ∧
      (s.cfgFmt ≠ 0 → 800 ≤ t.strLen.toNat ∧ t.strLen.toNat ≤ 42800) ∧
      t.rpb.freshFrom s.draws = true ∧ t.cpb.freshFrom s.draws = true ∧
      t = { s with str := t.str, strLen := t.strLen, rpb := t.rpb, cpb := t.cpb, status := .done,
                   draws := t.draws }

/-- R169: DECFRAME outside FAILED: BAD_CONFIG when CFG_FMT is 3; under a geometry, BAD_LENGTH when STR_LEN exceeds 64000;
the decoder's fault, with PLN, RPB and CPB unspecified; or PLN is the decoded frame, RPB and CPB are unspecified and STATUS is DONE. Nothing else
changes. That PLN, RPB and CPB are unchanged by a BAD_LENGTH is the model's reading of R205, R208 and D9 against the general
words of R206 and R37 (c) (DEDUCED, log entry 3). -/
def Obligations.DecframeFollowsItsRule : Prop :=
  ∀ s : State, s.status ≠ .failed →
    (s.cfgFmt = 3 → exec .decframe s = .next (s.raise ⟨.badConfig, 0, 0, 0, 0, 3⟩)) ∧
    ∀ g : Geometry, geometryOf s.cfgFmt = some g →
    (64000 < s.strLen.toNat →
      exec .decframe s = .next (s.raise ⟨.badLength, 0, 0, 0, 0, s.strLen.toNat⟩)) ∧
    (s.strLen.toNat ≤ 64000 →
      (∀ f, decodeFrame g (s.str.readRange s.strLen.toNat) = .error f →
        ∃ t, exec .decframe s = .next t ∧
          (f.cause = .rleOverflow ∨ f.cause = .rleTruncated ∨ f.cause = .rleTrailing) ∧
          t.pln.freshFrom s.draws = true ∧ t.rpb.freshFrom s.draws = true ∧ t.cpb.freshFrom s.draws = true ∧
          t = { s.raise f with pln := t.pln, rpb := t.rpb, cpb := t.cpb, draws := t.draws }) ∧
      ∀ d, decodeFrame g (s.str.readRange s.strLen.toNat) = .ok d →
        ∃ t, exec .decframe s = .next t ∧ d.length = 32000 ∧ t.pln.holds s.pln d ∧
          t.rpb.freshFrom s.draws = true ∧ t.cpb.freshFrom s.draws = true ∧
          t = { s with pln := t.pln, rpb := t.rpb, cpb := t.cpb, status := .done, draws := t.draws })

/-- R172 as commands: ENCFRAME then DECFRAME, with STR_LEN as ENCFRAME left it, leaves PLN as it was. -/
def Obligations.DecframeUndoesEncframe : Prop :=
  ∀ (s : State) (g : Geometry), s.status ≠ .failed → geometryOf s.cfgFmt = some g →
    ∃ t u, exec .encframe s = .next t ∧ exec .decframe t = .next u ∧ u.status = .done ∧ u.pln.sameReads s.pln

/-- DECFRAME, one atomic step, ends in the very state that running its stream opcode by opcode from its beginning
reaches (R167, R169, R186; the inside of a command is the model's own view, log entry 4). -/
def Obligations.DecframeIsItsOpcodesOneByOne : Prop :=
  ∀ (s : State) (g : Geometry), s.dec = none → s.status ≠ .failed → geometryOf s.cfgFmt = some g →
    s.strLen.toNat ≤ 64000 → ∃ k, Sys2Proof.core.run k (s.beginDecframe g) = exec .decframe s

/-! ### Whole-machine rules -/

/-- R50, R63, R66, R191: whatever the state and whether a command completes, faults or is ignored, it writes no memory
but its destination (and a frame command's scratch buffers), and no register but those its rule names; CFG_FMT and
ROW_LEN are the host's alone. -/
def Obligations.CommandsWriteOnlyWhatTheyMay : Prop :=
  ∀ (s t : State) (i : Instr), i.isStream = false → exec i s = .next t →
    t.cfgFmt = s.cfgFmt ∧ t.rowLen = s.rowLen ∧ t.dec = s.dec ∧ t.host = s.host ∧ t.reply = s.reply ∧
    (i ≠ .unpack → t.idx = s.idx) ∧
    (i ≠ .pack → i ≠ .decframe → t.pln = s.pln) ∧
    (i ≠ .encframe → t.str = s.str) ∧
    (i ≠ .decrow → i ≠ .encframe → i ≠ .decframe → t.rpb = s.rpb) ∧
    (i ≠ .encrow → i ≠ .encframe → i ≠ .decframe → t.cpb = s.cpb) ∧
    (i ≠ .decrow → t.rowCnt = s.rowCnt) ∧ (i ≠ .encrow → t.crowLen = s.crowLen) ∧
    (i ≠ .encframe → t.strLen = s.strLen)

/-- R63: what a command does is a function of its source space and its registers: two states that agree on them, and are
both outside FAILED, end with the same STATUS, and a completed command leaves the same in its destination. -/
def Obligations.CommandOutcomeDependsOnlyOnItsSources : Prop :=
  ∀ (s s' t t' : State) (i : Instr), i.isStream = false → s.status ≠ .failed → s'.status ≠ .failed →
    s.cfgFmt = s'.cfgFmt → s.rowLen = s'.rowLen → s.crowLen = s'.crowLen → s.strLen = s'.strLen →
    (i = .pack → s.idx.sameReads s'.idx) → (i = .unpack ∨ i = .encframe → s.pln.sameReads s'.pln) →
    (i = .encrow → s.rpb.sameReads s'.rpb) → (i = .decrow → s.cpb.sameReads s'.cpb) →
    (i = .decframe → s.str.sameReads s'.str) →
    exec i s = .next t → exec i s' = .next t' →
    t.status = t'.status ∧
    (t.status = .done →
      (i = .pack ∨ i = .decframe → ∀ a, a < 32000 → t.pln.read a = t'.pln.read a) ∧
      (i = .unpack → ∀ g, geometryOf s.cfgFmt = some g → ∀ a, a < g.w * g.h → t.idx.read a = t'.idx.read a) ∧
      (i = .encrow → t.crowLen = t'.crowLen ∧ ∀ a, a < t.crowLen.toNat → t.cpb.read a = t'.cpb.read a) ∧
      (i = .decrow → t.rowCnt = t'.rowCnt ∧ ∀ a, a < t.rowCnt.toNat → t.rpb.read a = t'.rpb.read a) ∧
      (i = .encframe → t.strLen = t'.strLen ∧ ∀ a, a < t.strLen.toNat → t.str.read a = t'.str.read a))

/-- R62: a raw file is the 34 header bytes and PLN, 32034 bytes in all; a compressed file is the 34 header bytes and
STR[0..STR_LEN). For an illegal STR_LEN, above 64000, the bytes past the end of STR are free values, the model's choice (log
entry 15). -/
def Obligations.FileBytesAreThePixelData : Prop :=
  ∀ (s : State) (header : List Byte), header.length = 34 →
    (fileImage header s.rawPixelData).length = 32034 ∧
    (∀ a, a < 32000 → (fileImage header s.rawPixelData).getD (34 + a) 0 = s.pln.read a) ∧
    (fileImage header s.compressedPixelData).length = 34 + s.strLen.toNat ∧
    ∀ a, a < s.strLen.toNat → (fileImage header s.compressedPixelData).getD (34 + a) 0 = s.str.read a

/-- The invariant of the block between commands holds in the initial state (R20, R24, R29, R50; the canonical
form and the draws are the model's bookkeeping, log entries 1, 2). -/
def Obligations.InvariantHoldsAtReset : Prop :=
  State.reset.inv = true

/-- R20, R24, R29, R50, R52: every step keeps the invariant: canonical memories with no cell outside its space, FAULT
set exactly in FAILED, the context registers 0 outside FAILED, no decoder left running (the canonical form and the draws are
the model's bookkeeping, log entries 1, 2). -/
def Obligations.EveryStepKeepsTheInvariant : Prop :=
  ∀ s t : State, s.inv = true → step s = .next t → t.inv = true

/-- R207: whenever the block is FAILED, the context registers hold what the table gives for the cause, within the bounds
that the lengths and the geometry the command read give (an offset inside the input, a row-plane of the frame, an opcode that
exceeds the budget exactly in RLE_OVERFLOW); every step keeps that. -/
def Obligations.EveryStepKeepsTheFaultContextLegal : Prop :=
  ∀ s t : State, s.inv = true → s.contextLegal = true → step s = .next t → t.contextLegal = true
end

