-- ==== Sys2Proof/Laws/State.lean ====
section
/-! SUPPORT. The fields of the state after each update the model makes: one lemma per field per update. -/

namespace Sys2Proof.Machine


/-! ### markDone -/

@[simp] theorem State.markDone_cfgFmt (s : State) : s.markDone.cfgFmt = s.cfgFmt := rfl
@[simp] theorem State.markDone_status (s : State) : s.markDone.status = .done := rfl
@[simp] theorem State.markDone_fault (s : State) : s.markDone.fault = s.fault := rfl
@[simp] theorem State.markDone_rowLen (s : State) : s.markDone.rowLen = s.rowLen := rfl
@[simp] theorem State.markDone_rowCnt (s : State) : s.markDone.rowCnt = s.rowCnt := rfl
@[simp] theorem State.markDone_crowLen (s : State) : s.markDone.crowLen = s.crowLen := rfl
@[simp] theorem State.markDone_strLen (s : State) : s.markDone.strLen = s.strLen := rfl
@[simp] theorem State.markDone_faultRow (s : State) : s.markDone.faultRow = s.faultRow := rfl
@[simp] theorem State.markDone_faultPlane (s : State) : s.markDone.faultPlane = s.faultPlane := rfl
@[simp] theorem State.markDone_faultIpos (s : State) : s.markDone.faultIpos = s.faultIpos := rfl
@[simp] theorem State.markDone_faultOpos (s : State) : s.markDone.faultOpos = s.faultOpos := rfl
@[simp] theorem State.markDone_faultVal (s : State) : s.markDone.faultVal = s.faultVal := rfl
@[simp] theorem State.markDone_idx (s : State) : s.markDone.idx = s.idx := rfl
@[simp] theorem State.markDone_pln (s : State) : s.markDone.pln = s.pln := rfl
@[simp] theorem State.markDone_str (s : State) : s.markDone.str = s.str := rfl
@[simp] theorem State.markDone_rpb (s : State) : s.markDone.rpb = s.rpb := rfl
@[simp] theorem State.markDone_cpb (s : State) : s.markDone.cpb = s.cpb := rfl
@[simp] theorem State.markDone_dec (s : State) : s.markDone.dec = s.dec := rfl
@[simp] theorem State.markDone_host (s : State) : s.markDone.host = s.host := rfl
@[simp] theorem State.markDone_reply (s : State) : s.markDone.reply = s.reply := rfl
@[simp] theorem State.markDone_draws (s : State) : s.markDone.draws = s.draws := rfl


/-! ### raise -/

@[simp] theorem State.raise_cfgFmt (s : State) (f : FaultRecord) : (s.raise f).cfgFmt = s.cfgFmt := rfl
@[simp] theorem State.raise_status (s : State) (f : FaultRecord) : (s.raise f).status = .failed := rfl
@[simp] theorem State.raise_fault (s : State) (f : FaultRecord) : (s.raise f).fault = f.cause := rfl
@[simp] theorem State.raise_rowLen (s : State) (f : FaultRecord) : (s.raise f).rowLen = s.rowLen := rfl
@[simp] theorem State.raise_rowCnt (s : State) (f : FaultRecord) : (s.raise f).rowCnt = s.rowCnt := rfl
@[simp] theorem State.raise_crowLen (s : State) (f : FaultRecord) : (s.raise f).crowLen = s.crowLen := rfl
@[simp] theorem State.raise_strLen (s : State) (f : FaultRecord) : (s.raise f).strLen = s.strLen := rfl
@[simp] theorem State.raise_faultRow (s : State) (f : FaultRecord) :
    (s.raise f).faultRow = BitVec.ofNat 9 f.row := rfl
@[simp] theorem State.raise_faultPlane (s : State) (f : FaultRecord) :
    (s.raise f).faultPlane = BitVec.ofNat 2 f.plane := rfl
@[simp] theorem State.raise_faultIpos (s : State) (f : FaultRecord) :
    (s.raise f).faultIpos = BitVec.ofNat 17 f.ipos := rfl
@[simp] theorem State.raise_faultOpos (s : State) (f : FaultRecord) :
    (s.raise f).faultOpos = BitVec.ofNat 8 f.opos := rfl
@[simp] theorem State.raise_faultVal (s : State) (f : FaultRecord) :
    (s.raise f).faultVal = BitVec.ofNat 17 f.val := rfl
@[simp] theorem State.raise_idx (s : State) (f : FaultRecord) : (s.raise f).idx = s.idx := rfl
@[simp] theorem State.raise_pln (s : State) (f : FaultRecord) : (s.raise f).pln = s.pln := rfl
@[simp] theorem State.raise_str (s : State) (f : FaultRecord) : (s.raise f).str = s.str := rfl
@[simp] theorem State.raise_rpb (s : State) (f : FaultRecord) : (s.raise f).rpb = s.rpb := rfl
@[simp] theorem State.raise_cpb (s : State) (f : FaultRecord) : (s.raise f).cpb = s.cpb := rfl
@[simp] theorem State.raise_dec (s : State) (f : FaultRecord) : (s.raise f).dec = s.dec := rfl
@[simp] theorem State.raise_host (s : State) (f : FaultRecord) : (s.raise f).host = s.host := rfl
@[simp] theorem State.raise_reply (s : State) (f : FaultRecord) : (s.raise f).reply = s.reply := rfl
@[simp] theorem State.raise_draws (s : State) (f : FaultRecord) : (s.raise f).draws = s.draws := rfl


/-! ### resetRegisters -/

@[simp] theorem State.resetRegisters_cfgFmt (s : State) : s.resetRegisters.cfgFmt = 0#2 := rfl
@[simp] theorem State.resetRegisters_status (s : State) : s.resetRegisters.status = .idle := rfl
@[simp] theorem State.resetRegisters_fault (s : State) : s.resetRegisters.fault = .none := rfl
@[simp] theorem State.resetRegisters_rowLen (s : State) : s.resetRegisters.rowLen = 0#8 := rfl
@[simp] theorem State.resetRegisters_rowCnt (s : State) : s.resetRegisters.rowCnt = 0#8 := rfl
@[simp] theorem State.resetRegisters_crowLen (s : State) : s.resetRegisters.crowLen = 0#8 := rfl
@[simp] theorem State.resetRegisters_strLen (s : State) : s.resetRegisters.strLen = 0#17 := rfl
@[simp] theorem State.resetRegisters_faultRow (s : State) : s.resetRegisters.faultRow = 0#9 := rfl
@[simp] theorem State.resetRegisters_faultPlane (s : State) : s.resetRegisters.faultPlane = 0#2 := rfl
@[simp] theorem State.resetRegisters_faultIpos (s : State) : s.resetRegisters.faultIpos = 0#17 := rfl
@[simp] theorem State.resetRegisters_faultOpos (s : State) : s.resetRegisters.faultOpos = 0#8 := rfl
@[simp] theorem State.resetRegisters_faultVal (s : State) : s.resetRegisters.faultVal = 0#17 := rfl
@[simp] theorem State.resetRegisters_idx (s : State) : s.resetRegisters.idx = s.idx := rfl
@[simp] theorem State.resetRegisters_pln (s : State) : s.resetRegisters.pln = s.pln := rfl
@[simp] theorem State.resetRegisters_str (s : State) : s.resetRegisters.str = s.str := rfl
@[simp] theorem State.resetRegisters_rpb (s : State) : s.resetRegisters.rpb = s.rpb := rfl
@[simp] theorem State.resetRegisters_cpb (s : State) : s.resetRegisters.cpb = s.cpb := rfl
@[simp] theorem State.resetRegisters_dec (s : State) : s.resetRegisters.dec = s.dec := rfl
@[simp] theorem State.resetRegisters_host (s : State) : s.resetRegisters.host = s.host := rfl
@[simp] theorem State.resetRegisters_reply (s : State) : s.resetRegisters.reply = s.reply := rfl
@[simp] theorem State.resetRegisters_draws (s : State) : s.resetRegisters.draws = s.draws := rfl


/-! ### forgetScratch -/

@[simp] theorem State.forgetScratch_cfgFmt (s : State) : s.forgetScratch.cfgFmt = s.cfgFmt := rfl
@[simp] theorem State.forgetScratch_status (s : State) : s.forgetScratch.status = s.status := rfl
@[simp] theorem State.forgetScratch_fault (s : State) : s.forgetScratch.fault = s.fault := rfl
@[simp] theorem State.forgetScratch_rowLen (s : State) : s.forgetScratch.rowLen = s.rowLen := rfl
@[simp] theorem State.forgetScratch_rowCnt (s : State) : s.forgetScratch.rowCnt = s.rowCnt := rfl
@[simp] theorem State.forgetScratch_crowLen (s : State) : s.forgetScratch.crowLen = s.crowLen := rfl
@[simp] theorem State.forgetScratch_strLen (s : State) : s.forgetScratch.strLen = s.strLen := rfl
@[simp] theorem State.forgetScratch_faultRow (s : State) : s.forgetScratch.faultRow = s.faultRow := rfl
@[simp] theorem State.forgetScratch_faultPlane (s : State) : s.forgetScratch.faultPlane = s.faultPlane := rfl
@[simp] theorem State.forgetScratch_faultIpos (s : State) : s.forgetScratch.faultIpos = s.faultIpos := rfl
@[simp] theorem State.forgetScratch_faultOpos (s : State) : s.forgetScratch.faultOpos = s.faultOpos := rfl
@[simp] theorem State.forgetScratch_faultVal (s : State) : s.forgetScratch.faultVal = s.faultVal := rfl
@[simp] theorem State.forgetScratch_idx (s : State) : s.forgetScratch.idx = s.idx := rfl
@[simp] theorem State.forgetScratch_pln (s : State) : s.forgetScratch.pln = s.pln := rfl
@[simp] theorem State.forgetScratch_str (s : State) : s.forgetScratch.str = s.str := rfl
@[simp] theorem State.forgetScratch_rpb (s : State) : s.forgetScratch.rpb = Memory.unspecified s.draws := rfl
@[simp] theorem State.forgetScratch_cpb (s : State) : s.forgetScratch.cpb = Memory.unspecified (s.draws + 1) := rfl
@[simp] theorem State.forgetScratch_dec (s : State) : s.forgetScratch.dec = s.dec := rfl
@[simp] theorem State.forgetScratch_host (s : State) : s.forgetScratch.host = s.host := rfl
@[simp] theorem State.forgetScratch_reply (s : State) : s.forgetScratch.reply = s.reply := rfl
@[simp] theorem State.forgetScratch_draws (s : State) : s.forgetScratch.draws = s.draws + 2 := rfl


/-! ### forgetRow -/

@[simp] theorem State.forgetRow_cfgFmt (s : State) : s.forgetRow.cfgFmt = s.cfgFmt := rfl
@[simp] theorem State.forgetRow_status (s : State) : s.forgetRow.status = s.status := rfl
@[simp] theorem State.forgetRow_fault (s : State) : s.forgetRow.fault = s.fault := rfl
@[simp] theorem State.forgetRow_rowLen (s : State) : s.forgetRow.rowLen = s.rowLen := rfl
@[simp] theorem State.forgetRow_rowCnt (s : State) : s.forgetRow.rowCnt = Config.freeValue 8 (s.draws + 1) 0 := rfl
@[simp] theorem State.forgetRow_crowLen (s : State) : s.forgetRow.crowLen = s.crowLen := rfl
@[simp] theorem State.forgetRow_strLen (s : State) : s.forgetRow.strLen = s.strLen := rfl
@[simp] theorem State.forgetRow_faultRow (s : State) : s.forgetRow.faultRow = s.faultRow := rfl
@[simp] theorem State.forgetRow_faultPlane (s : State) : s.forgetRow.faultPlane = s.faultPlane := rfl
@[simp] theorem State.forgetRow_faultIpos (s : State) : s.forgetRow.faultIpos = s.faultIpos := rfl
@[simp] theorem State.forgetRow_faultOpos (s : State) : s.forgetRow.faultOpos = s.faultOpos := rfl
@[simp] theorem State.forgetRow_faultVal (s : State) : s.forgetRow.faultVal = s.faultVal := rfl
@[simp] theorem State.forgetRow_idx (s : State) : s.forgetRow.idx = s.idx := rfl
@[simp] theorem State.forgetRow_pln (s : State) : s.forgetRow.pln = s.pln := rfl
@[simp] theorem State.forgetRow_str (s : State) : s.forgetRow.str = s.str := rfl
@[simp] theorem State.forgetRow_rpb (s : State) : s.forgetRow.rpb = Memory.unspecified s.draws := rfl
@[simp] theorem State.forgetRow_cpb (s : State) : s.forgetRow.cpb = s.cpb := rfl
@[simp] theorem State.forgetRow_dec (s : State) : s.forgetRow.dec = s.dec := rfl
@[simp] theorem State.forgetRow_host (s : State) : s.forgetRow.host = s.host := rfl
@[simp] theorem State.forgetRow_reply (s : State) : s.forgetRow.reply = s.reply := rfl
@[simp] theorem State.forgetRow_draws (s : State) : s.forgetRow.draws = s.draws + 2 := rfl


/-! ### forgetFrame -/

@[simp] theorem State.forgetFrame_cfgFmt (s : State) : s.forgetFrame.cfgFmt = s.cfgFmt := rfl
@[simp] theorem State.forgetFrame_status (s : State) : s.forgetFrame.status = s.status := rfl
@[simp] theorem State.forgetFrame_fault (s : State) : s.forgetFrame.fault = s.fault := rfl
@[simp] theorem State.forgetFrame_rowLen (s : State) : s.forgetFrame.rowLen = s.rowLen := rfl
@[simp] theorem State.forgetFrame_rowCnt (s : State) : s.forgetFrame.rowCnt = s.rowCnt := rfl
@[simp] theorem State.forgetFrame_crowLen (s : State) : s.forgetFrame.crowLen = s.crowLen := rfl
@[simp] theorem State.forgetFrame_strLen (s : State) : s.forgetFrame.strLen = s.strLen := rfl
@[simp] theorem State.forgetFrame_faultRow (s : State) : s.forgetFrame.faultRow = s.faultRow := rfl
@[simp] theorem State.forgetFrame_faultPlane (s : State) : s.forgetFrame.faultPlane = s.faultPlane := rfl
@[simp] theorem State.forgetFrame_faultIpos (s : State) : s.forgetFrame.faultIpos = s.faultIpos := rfl
@[simp] theorem State.forgetFrame_faultOpos (s : State) : s.forgetFrame.faultOpos = s.faultOpos := rfl
@[simp] theorem State.forgetFrame_faultVal (s : State) : s.forgetFrame.faultVal = s.faultVal := rfl
@[simp] theorem State.forgetFrame_idx (s : State) : s.forgetFrame.idx = s.idx := rfl
@[simp] theorem State.forgetFrame_pln (s : State) : s.forgetFrame.pln = Memory.unspecified (s.draws + 2) := rfl
@[simp] theorem State.forgetFrame_str (s : State) : s.forgetFrame.str = s.str := rfl
@[simp] theorem State.forgetFrame_rpb (s : State) : s.forgetFrame.rpb = Memory.unspecified s.draws := rfl
@[simp] theorem State.forgetFrame_cpb (s : State) : s.forgetFrame.cpb = Memory.unspecified (s.draws + 1) := rfl
@[simp] theorem State.forgetFrame_dec (s : State) : s.forgetFrame.dec = s.dec := rfl
@[simp] theorem State.forgetFrame_host (s : State) : s.forgetFrame.host = s.host := rfl
@[simp] theorem State.forgetFrame_reply (s : State) : s.forgetFrame.reply = s.reply := rfl
@[simp] theorem State.forgetFrame_draws (s : State) : s.forgetFrame.draws = s.draws + 3 := rfl


/-! ### takeAction -/

@[simp] theorem State.takeAction_cfgFmt (s : State) (rest : List HostAction) :
    (s.takeAction rest).cfgFmt = s.cfgFmt := rfl
@[simp] theorem State.takeAction_status (s : State) (rest : List HostAction) :
    (s.takeAction rest).status = s.status := rfl
@[simp] theorem State.takeAction_fault (s : State) (rest : List HostAction) :
    (s.takeAction rest).fault = s.fault := rfl
@[simp] theorem State.takeAction_rowLen (s : State) (rest : List HostAction) :
    (s.takeAction rest).rowLen = s.rowLen := rfl
@[simp] theorem State.takeAction_rowCnt (s : State) (rest : List HostAction) :
    (s.takeAction rest).rowCnt = s.rowCnt := rfl
@[simp] theorem State.takeAction_crowLen (s : State) (rest : List HostAction) :
    (s.takeAction rest).crowLen = s.crowLen := rfl
@[simp] theorem State.takeAction_strLen (s : State) (rest : List HostAction) :
    (s.takeAction rest).strLen = s.strLen := rfl
@[simp] theorem State.takeAction_faultRow (s : State) (rest : List HostAction) :
    (s.takeAction rest).faultRow = s.faultRow := rfl
@[simp] theorem State.takeAction_faultPlane (s : State) (rest : List HostAction) :
    (s.takeAction rest).faultPlane = s.faultPlane := rfl
@[simp] theorem State.takeAction_faultIpos (s : State) (rest : List HostAction) :
    (s.takeAction rest).faultIpos = s.faultIpos := rfl
@[simp] theorem State.takeAction_faultOpos (s : State) (rest : List HostAction) :
    (s.takeAction rest).faultOpos = s.faultOpos := rfl
@[simp] theorem State.takeAction_faultVal (s : State) (rest : List HostAction) :
    (s.takeAction rest).faultVal = s.faultVal := rfl
@[simp] theorem State.takeAction_idx (s : State) (rest : List HostAction) : (s.takeAction rest).idx = s.idx := rfl
@[simp] theorem State.takeAction_pln (s : State) (rest : List HostAction) : (s.takeAction rest).pln = s.pln := rfl
@[simp] theorem State.takeAction_str (s : State) (rest : List HostAction) : (s.takeAction rest).str = s.str := rfl
@[simp] theorem State.takeAction_rpb (s : State) (rest : List HostAction) : (s.takeAction rest).rpb = s.rpb := rfl
@[simp] theorem State.takeAction_cpb (s : State) (rest : List HostAction) : (s.takeAction rest).cpb = s.cpb := rfl
@[simp] theorem State.takeAction_dec (s : State) (rest : List HostAction) : (s.takeAction rest).dec = s.dec := rfl
@[simp] theorem State.takeAction_host (s : State) (rest : List HostAction) : (s.takeAction rest).host = rest := rfl
@[simp] theorem State.takeAction_reply (s : State) (rest : List HostAction) : (s.takeAction rest).reply = none := rfl
@[simp] theorem State.takeAction_draws (s : State) (rest : List HostAction) :
    (s.takeAction rest).draws = s.draws := rfl


/-! ### beginDecrow -/

@[simp] theorem State.beginDecrow_cfgFmt (s : State) : s.beginDecrow.cfgFmt = s.cfgFmt := rfl
@[simp] theorem State.beginDecrow_status (s : State) : s.beginDecrow.status = s.status := rfl
@[simp] theorem State.beginDecrow_fault (s : State) : s.beginDecrow.fault = s.fault := rfl
@[simp] theorem State.beginDecrow_rowLen (s : State) : s.beginDecrow.rowLen = s.rowLen := rfl
@[simp] theorem State.beginDecrow_rowCnt (s : State) : s.beginDecrow.rowCnt = s.rowCnt := rfl
@[simp] theorem State.beginDecrow_crowLen (s : State) : s.beginDecrow.crowLen = s.crowLen := rfl
@[simp] theorem State.beginDecrow_strLen (s : State) : s.beginDecrow.strLen = s.strLen := rfl
@[simp] theorem State.beginDecrow_faultRow (s : State) : s.beginDecrow.faultRow = s.faultRow := rfl
@[simp] theorem State.beginDecrow_faultPlane (s : State) : s.beginDecrow.faultPlane = s.faultPlane := rfl
@[simp] theorem State.beginDecrow_faultIpos (s : State) : s.beginDecrow.faultIpos = s.faultIpos := rfl
@[simp] theorem State.beginDecrow_faultOpos (s : State) : s.beginDecrow.faultOpos = s.faultOpos := rfl
@[simp] theorem State.beginDecrow_faultVal (s : State) : s.beginDecrow.faultVal = s.faultVal := rfl
@[simp] theorem State.beginDecrow_idx (s : State) : s.beginDecrow.idx = s.idx := rfl
@[simp] theorem State.beginDecrow_pln (s : State) : s.beginDecrow.pln = s.pln := rfl
@[simp] theorem State.beginDecrow_str (s : State) : s.beginDecrow.str = s.str := rfl
@[simp] theorem State.beginDecrow_rpb (s : State) : s.beginDecrow.rpb = s.rpb := rfl
@[simp] theorem State.beginDecrow_cpb (s : State) : s.beginDecrow.cpb = s.cpb := rfl
@[simp] theorem State.beginDecrow_dec (s : State) :
    s.beginDecrow.dec = some { geom := none, ip := 0, row := [], rows := [] } := rfl
@[simp] theorem State.beginDecrow_host (s : State) : s.beginDecrow.host = s.host := rfl
@[simp] theorem State.beginDecrow_reply (s : State) : s.beginDecrow.reply = s.reply := rfl
@[simp] theorem State.beginDecrow_draws (s : State) : s.beginDecrow.draws = s.draws := rfl


/-! ### beginDecframe -/

@[simp] theorem State.beginDecframe_cfgFmt (s : State) (g : Geometry) : (s.beginDecframe g).cfgFmt = s.cfgFmt := rfl
@[simp] theorem State.beginDecframe_status (s : State) (g : Geometry) : (s.beginDecframe g).status = s.status := rfl
@[simp] theorem State.beginDecframe_fault (s : State) (g : Geometry) : (s.beginDecframe g).fault = s.fault := rfl
@[simp] theorem State.beginDecframe_rowLen (s : State) (g : Geometry) : (s.beginDecframe g).rowLen = s.rowLen := rfl
@[simp] theorem State.beginDecframe_rowCnt (s : State) (g : Geometry) : (s.beginDecframe g).rowCnt = s.rowCnt := rfl
@[simp] theorem State.beginDecframe_crowLen (s : State) (g : Geometry) :
    (s.beginDecframe g).crowLen = s.crowLen := rfl
@[simp] theorem State.beginDecframe_strLen (s : State) (g : Geometry) : (s.beginDecframe g).strLen = s.strLen := rfl
@[simp] theorem State.beginDecframe_faultRow (s : State) (g : Geometry) :
    (s.beginDecframe g).faultRow = s.faultRow := rfl
@[simp] theorem State.beginDecframe_faultPlane (s : State) (g : Geometry) :
    (s.beginDecframe g).faultPlane = s.faultPlane := rfl
@[simp] theorem State.beginDecframe_faultIpos (s : State) (g : Geometry) :
    (s.beginDecframe g).faultIpos = s.faultIpos := rfl
@[simp] theorem State.beginDecframe_faultOpos (s : State) (g : Geometry) :
    (s.beginDecframe g).faultOpos = s.faultOpos := rfl
@[simp] theorem State.beginDecframe_faultVal (s : State) (g : Geometry) :
    (s.beginDecframe g).faultVal = s.faultVal := rfl
@[simp] theorem State.beginDecframe_idx (s : State) (g : Geometry) : (s.beginDecframe g).idx = s.idx := rfl
@[simp] theorem State.beginDecframe_pln (s : State) (g : Geometry) : (s.beginDecframe g).pln = s.pln := rfl
@[simp] theorem State.beginDecframe_str (s : State) (g : Geometry) : (s.beginDecframe g).str = s.str := rfl
@[simp] theorem State.beginDecframe_rpb (s : State) (g : Geometry) : (s.beginDecframe g).rpb = s.rpb := rfl
@[simp] theorem State.beginDecframe_cpb (s : State) (g : Geometry) : (s.beginDecframe g).cpb = s.cpb := rfl
@[simp] theorem State.beginDecframe_dec (s : State) (g : Geometry) :
    (s.beginDecframe g).dec = some { geom := some g, ip := 0, row := [], rows := [] } := rfl
@[simp] theorem State.beginDecframe_host (s : State) (g : Geometry) : (s.beginDecframe g).host = s.host := rfl
@[simp] theorem State.beginDecframe_reply (s : State) (g : Geometry) : (s.beginDecframe g).reply = s.reply := rfl
@[simp] theorem State.beginDecframe_draws (s : State) (g : Geometry) : (s.beginDecframe g).draws = s.draws := rfl


/-! ### finishEncrow -/

@[simp] theorem finishEncrow_cfgFmt (s : State) (e : List Byte) : (finishEncrow e s).cfgFmt = s.cfgFmt := rfl
@[simp] theorem finishEncrow_status (s : State) (e : List Byte) : (finishEncrow e s).status = .done := rfl
@[simp] theorem finishEncrow_fault (s : State) (e : List Byte) : (finishEncrow e s).fault = s.fault := rfl
@[simp] theorem finishEncrow_rowLen (s : State) (e : List Byte) : (finishEncrow e s).rowLen = s.rowLen := rfl
@[simp] theorem finishEncrow_rowCnt (s : State) (e : List Byte) : (finishEncrow e s).rowCnt = s.rowCnt := rfl
@[simp] theorem finishEncrow_crowLen (s : State) (e : List Byte) :
    (finishEncrow e s).crowLen = BitVec.ofNat 8 e.length := rfl
@[simp] theorem finishEncrow_strLen (s : State) (e : List Byte) : (finishEncrow e s).strLen = s.strLen := rfl
@[simp] theorem finishEncrow_faultRow (s : State) (e : List Byte) : (finishEncrow e s).faultRow = s.faultRow := rfl
@[simp] theorem finishEncrow_faultPlane (s : State) (e : List Byte) :
    (finishEncrow e s).faultPlane = s.faultPlane := rfl
@[simp] theorem finishEncrow_faultIpos (s : State) (e : List Byte) : (finishEncrow e s).faultIpos = s.faultIpos := rfl
@[simp] theorem finishEncrow_faultOpos (s : State) (e : List Byte) : (finishEncrow e s).faultOpos = s.faultOpos := rfl
@[simp] theorem finishEncrow_faultVal (s : State) (e : List Byte) : (finishEncrow e s).faultVal = s.faultVal := rfl
@[simp] theorem finishEncrow_idx (s : State) (e : List Byte) : (finishEncrow e s).idx = s.idx := rfl
@[simp] theorem finishEncrow_pln (s : State) (e : List Byte) : (finishEncrow e s).pln = s.pln := rfl
@[simp] theorem finishEncrow_str (s : State) (e : List Byte) : (finishEncrow e s).str = s.str := rfl
@[simp] theorem finishEncrow_rpb (s : State) (e : List Byte) : (finishEncrow e s).rpb = s.rpb := rfl
@[simp] theorem finishEncrow_cpb (s : State) (e : List Byte) : (finishEncrow e s).cpb = s.cpb.writeRange e := rfl
@[simp] theorem finishEncrow_dec (s : State) (e : List Byte) : (finishEncrow e s).dec = s.dec := rfl
@[simp] theorem finishEncrow_host (s : State) (e : List Byte) : (finishEncrow e s).host = s.host := rfl
@[simp] theorem finishEncrow_reply (s : State) (e : List Byte) : (finishEncrow e s).reply = s.reply := rfl
@[simp] theorem finishEncrow_draws (s : State) (e : List Byte) : (finishEncrow e s).draws = s.draws := rfl


/-! ### finishDecrow -/

@[simp] theorem finishDecrow_cfgFmt (s : State) (r : List Byte) : (finishDecrow r s).cfgFmt = s.cfgFmt := rfl
@[simp] theorem finishDecrow_status (s : State) (r : List Byte) : (finishDecrow r s).status = .done := rfl
@[simp] theorem finishDecrow_fault (s : State) (r : List Byte) : (finishDecrow r s).fault = s.fault := rfl
@[simp] theorem finishDecrow_rowLen (s : State) (r : List Byte) : (finishDecrow r s).rowLen = s.rowLen := rfl
@[simp] theorem finishDecrow_rowCnt (s : State) (r : List Byte) :
    (finishDecrow r s).rowCnt = BitVec.ofNat 8 r.length := rfl
@[simp] theorem finishDecrow_crowLen (s : State) (r : List Byte) : (finishDecrow r s).crowLen = s.crowLen := rfl
@[simp] theorem finishDecrow_strLen (s : State) (r : List Byte) : (finishDecrow r s).strLen = s.strLen := rfl
@[simp] theorem finishDecrow_faultRow (s : State) (r : List Byte) : (finishDecrow r s).faultRow = s.faultRow := rfl
@[simp] theorem finishDecrow_faultPlane (s : State) (r : List Byte) :
    (finishDecrow r s).faultPlane = s.faultPlane := rfl
@[simp] theorem finishDecrow_faultIpos (s : State) (r : List Byte) : (finishDecrow r s).faultIpos = s.faultIpos := rfl
@[simp] theorem finishDecrow_faultOpos (s : State) (r : List Byte) : (finishDecrow r s).faultOpos = s.faultOpos := rfl
@[simp] theorem finishDecrow_faultVal (s : State) (r : List Byte) : (finishDecrow r s).faultVal = s.faultVal := rfl
@[simp] theorem finishDecrow_idx (s : State) (r : List Byte) : (finishDecrow r s).idx = s.idx := rfl
@[simp] theorem finishDecrow_pln (s : State) (r : List Byte) : (finishDecrow r s).pln = s.pln := rfl
@[simp] theorem finishDecrow_str (s : State) (r : List Byte) : (finishDecrow r s).str = s.str := rfl
@[simp] theorem finishDecrow_rpb (s : State) (r : List Byte) : (finishDecrow r s).rpb = s.rpb.writeRange r := rfl
@[simp] theorem finishDecrow_cpb (s : State) (r : List Byte) : (finishDecrow r s).cpb = s.cpb := rfl
@[simp] theorem finishDecrow_dec (s : State) (r : List Byte) : (finishDecrow r s).dec = s.dec := rfl
@[simp] theorem finishDecrow_host (s : State) (r : List Byte) : (finishDecrow r s).host = s.host := rfl
@[simp] theorem finishDecrow_reply (s : State) (r : List Byte) : (finishDecrow r s).reply = s.reply := rfl
@[simp] theorem finishDecrow_draws (s : State) (r : List Byte) : (finishDecrow r s).draws = s.draws := rfl


/-! ### finishEncframe -/

@[simp] theorem finishEncframe_cfgFmt (s : State) (e : List Byte) : (finishEncframe e s).cfgFmt = s.cfgFmt := rfl
@[simp] theorem finishEncframe_status (s : State) (e : List Byte) : (finishEncframe e s).status = .done := rfl
@[simp] theorem finishEncframe_fault (s : State) (e : List Byte) : (finishEncframe e s).fault = s.fault := rfl
@[simp] theorem finishEncframe_rowLen (s : State) (e : List Byte) : (finishEncframe e s).rowLen = s.rowLen := rfl
@[simp] theorem finishEncframe_rowCnt (s : State) (e : List Byte) : (finishEncframe e s).rowCnt = s.rowCnt := rfl
@[simp] theorem finishEncframe_crowLen (s : State) (e : List Byte) : (finishEncframe e s).crowLen = s.crowLen := rfl
@[simp] theorem finishEncframe_strLen (s : State) (e : List Byte) :
    (finishEncframe e s).strLen = BitVec.ofNat 17 e.length := rfl
@[simp] theorem finishEncframe_faultRow (s : State) (e : List Byte) :
    (finishEncframe e s).faultRow = s.faultRow := rfl
@[simp] theorem finishEncframe_faultPlane (s : State) (e : List Byte) :
    (finishEncframe e s).faultPlane = s.faultPlane := rfl
@[simp] theorem finishEncframe_faultIpos (s : State) (e : List Byte) :
    (finishEncframe e s).faultIpos = s.faultIpos := rfl
@[simp] theorem finishEncframe_faultOpos (s : State) (e : List Byte) :
    (finishEncframe e s).faultOpos = s.faultOpos := rfl
@[simp] theorem finishEncframe_faultVal (s : State) (e : List Byte) :
    (finishEncframe e s).faultVal = s.faultVal := rfl
@[simp] theorem finishEncframe_idx (s : State) (e : List Byte) : (finishEncframe e s).idx = s.idx := rfl
@[simp] theorem finishEncframe_pln (s : State) (e : List Byte) : (finishEncframe e s).pln = s.pln := rfl
@[simp] theorem finishEncframe_str (s : State) (e : List Byte) : (finishEncframe e s).str = s.str.writeRange e := rfl
@[simp] theorem finishEncframe_rpb (s : State) (e : List Byte) :
    (finishEncframe e s).rpb = Memory.unspecified s.draws := rfl
@[simp] theorem finishEncframe_cpb (s : State) (e : List Byte) :
    (finishEncframe e s).cpb = Memory.unspecified (s.draws + 1) := rfl
@[simp] theorem finishEncframe_dec (s : State) (e : List Byte) : (finishEncframe e s).dec = s.dec := rfl
@[simp] theorem finishEncframe_host (s : State) (e : List Byte) : (finishEncframe e s).host = s.host := rfl
@[simp] theorem finishEncframe_reply (s : State) (e : List Byte) : (finishEncframe e s).reply = s.reply := rfl
@[simp] theorem finishEncframe_draws (s : State) (e : List Byte) : (finishEncframe e s).draws = s.draws + 2 := rfl


/-! ### finishDecframe -/

@[simp] theorem finishDecframe_cfgFmt (s : State) (d : List Byte) : (finishDecframe d s).cfgFmt = s.cfgFmt := rfl
@[simp] theorem finishDecframe_status (s : State) (d : List Byte) : (finishDecframe d s).status = .done := rfl
@[simp] theorem finishDecframe_fault (s : State) (d : List Byte) : (finishDecframe d s).fault = s.fault := rfl
@[simp] theorem finishDecframe_rowLen (s : State) (d : List Byte) : (finishDecframe d s).rowLen = s.rowLen := rfl
@[simp] theorem finishDecframe_rowCnt (s : State) (d : List Byte) : (finishDecframe d s).rowCnt = s.rowCnt := rfl
@[simp] theorem finishDecframe_crowLen (s : State) (d : List Byte) : (finishDecframe d s).crowLen = s.crowLen := rfl
@[simp] theorem finishDecframe_strLen (s : State) (d : List Byte) : (finishDecframe d s).strLen = s.strLen := rfl
@[simp] theorem finishDecframe_faultRow (s : State) (d : List Byte) :
    (finishDecframe d s).faultRow = s.faultRow := rfl
@[simp] theorem finishDecframe_faultPlane (s : State) (d : List Byte) :
    (finishDecframe d s).faultPlane = s.faultPlane := rfl
@[simp] theorem finishDecframe_faultIpos (s : State) (d : List Byte) :
    (finishDecframe d s).faultIpos = s.faultIpos := rfl
@[simp] theorem finishDecframe_faultOpos (s : State) (d : List Byte) :
    (finishDecframe d s).faultOpos = s.faultOpos := rfl
@[simp] theorem finishDecframe_faultVal (s : State) (d : List Byte) :
    (finishDecframe d s).faultVal = s.faultVal := rfl
@[simp] theorem finishDecframe_idx (s : State) (d : List Byte) : (finishDecframe d s).idx = s.idx := rfl
@[simp] theorem finishDecframe_pln (s : State) (d : List Byte) : (finishDecframe d s).pln = s.pln.writeRange d := rfl
@[simp] theorem finishDecframe_str (s : State) (d : List Byte) : (finishDecframe d s).str = s.str := rfl
@[simp] theorem finishDecframe_rpb (s : State) (d : List Byte) :
    (finishDecframe d s).rpb = Memory.unspecified s.draws := rfl
@[simp] theorem finishDecframe_cpb (s : State) (d : List Byte) :
    (finishDecframe d s).cpb = Memory.unspecified (s.draws + 1) := rfl
@[simp] theorem finishDecframe_dec (s : State) (d : List Byte) : (finishDecframe d s).dec = s.dec := rfl
@[simp] theorem finishDecframe_host (s : State) (d : List Byte) : (finishDecframe d s).host = s.host := rfl
@[simp] theorem finishDecframe_reply (s : State) (d : List Byte) : (finishDecframe d s).reply = s.reply := rfl
@[simp] theorem finishDecframe_draws (s : State) (d : List Byte) : (finishDecframe d s).draws = s.draws + 2 := rfl


/-! ### writeReg: only CFG_FMT, ROW_LEN, CROW_LEN and STR_LEN can change (R181) -/

@[simp] theorem State.writeReg_status (s : State) (r : Nat) (v : BitVec 32) : (s.writeReg r v).status = s.status := by
  unfold State.writeReg; split <;> rfl

@[simp] theorem State.writeReg_fault (s : State) (r : Nat) (v : BitVec 32) : (s.writeReg r v).fault = s.fault := by
  unfold State.writeReg; split <;> rfl

@[simp] theorem State.writeReg_rowCnt (s : State) (r : Nat) (v : BitVec 32) : (s.writeReg r v).rowCnt = s.rowCnt := by
  unfold State.writeReg; split <;> rfl

@[simp] theorem State.writeReg_faultRow (s : State) (r : Nat) (v : BitVec 32) : (s.writeReg r v).faultRow = s.faultRow := by
  unfold State.writeReg; split <;> rfl

@[simp] theorem State.writeReg_faultPlane (s : State) (r : Nat) (v : BitVec 32) : (s.writeReg r v).faultPlane = s.faultPlane := by
  unfold State.writeReg; split <;> rfl

@[simp] theorem State.writeReg_faultIpos (s : State) (r : Nat) (v : BitVec 32) : (s.writeReg r v).faultIpos = s.faultIpos := by
  unfold State.writeReg; split <;> rfl

@[simp] theorem State.writeReg_faultOpos (s : State) (r : Nat) (v : BitVec 32) : (s.writeReg r v).faultOpos = s.faultOpos := by
  unfold State.writeReg; split <;> rfl

@[simp] theorem State.writeReg_faultVal (s : State) (r : Nat) (v : BitVec 32) : (s.writeReg r v).faultVal = s.faultVal := by
  unfold State.writeReg; split <;> rfl

@[simp] theorem State.writeReg_idx (s : State) (r : Nat) (v : BitVec 32) : (s.writeReg r v).idx = s.idx := by
  unfold State.writeReg; split <;> rfl

@[simp] theorem State.writeReg_pln (s : State) (r : Nat) (v : BitVec 32) : (s.writeReg r v).pln = s.pln := by
  unfold State.writeReg; split <;> rfl

@[simp] theorem State.writeReg_str (s : State) (r : Nat) (v : BitVec 32) : (s.writeReg r v).str = s.str := by
  unfold State.writeReg; split <;> rfl

@[simp] theorem State.writeReg_rpb (s : State) (r : Nat) (v : BitVec 32) : (s.writeReg r v).rpb = s.rpb := by
  unfold State.writeReg; split <;> rfl

@[simp] theorem State.writeReg_cpb (s : State) (r : Nat) (v : BitVec 32) : (s.writeReg r v).cpb = s.cpb := by
  unfold State.writeReg; split <;> rfl

@[simp] theorem State.writeReg_dec (s : State) (r : Nat) (v : BitVec 32) : (s.writeReg r v).dec = s.dec := by
  unfold State.writeReg; split <;> rfl

@[simp] theorem State.writeReg_host (s : State) (r : Nat) (v : BitVec 32) : (s.writeReg r v).host = s.host := by
  unfold State.writeReg; split <;> rfl

@[simp] theorem State.writeReg_reply (s : State) (r : Nat) (v : BitVec 32) : (s.writeReg r v).reply = s.reply := by
  unfold State.writeReg; split <;> rfl

@[simp] theorem State.writeReg_draws (s : State) (r : Nat) (v : BitVec 32) : (s.writeReg r v).draws = s.draws := by
  unfold State.writeReg; split <;> rfl

theorem State.writeReg_cfgFmt (s : State) (r : Nat) (v : BitVec 32) :
    (s.writeReg r v).cfgFmt = if r = 0 then v.setWidth 2 else s.cfgFmt := by
  unfold State.writeReg; split <;> simp_all

theorem State.writeReg_rowLen (s : State) (r : Nat) (v : BitVec 32) :
    (s.writeReg r v).rowLen = if r = 4 then v.setWidth 8 else s.rowLen := by
  unfold State.writeReg; split <;> simp_all

theorem State.writeReg_crowLen (s : State) (r : Nat) (v : BitVec 32) :
    (s.writeReg r v).crowLen = if r = 6 then v.setWidth 8 else s.crowLen := by
  unfold State.writeReg; split <;> simp_all

theorem State.writeReg_strLen (s : State) (r : Nat) (v : BitVec 32) :
    (s.writeReg r v).strLen = if r = 7 then v.setWidth 17 else s.strLen := by
  unfold State.writeReg; split <;> simp_all


/-! ### writeCell: only the memory of the space changes (R182) -/

@[simp] theorem State.writeCell_cfgFmt (s : State) (sp : Space) (a v : Nat) : (s.writeCell sp a v).cfgFmt = s.cfgFmt := by
  cases sp <;> rfl

@[simp] theorem State.writeCell_status (s : State) (sp : Space) (a v : Nat) : (s.writeCell sp a v).status = s.status := by
  cases sp <;> rfl

@[simp] theorem State.writeCell_fault (s : State) (sp : Space) (a v : Nat) : (s.writeCell sp a v).fault = s.fault := by
  cases sp <;> rfl

@[simp] theorem State.writeCell_rowLen (s : State) (sp : Space) (a v : Nat) : (s.writeCell sp a v).rowLen = s.rowLen := by
  cases sp <;> rfl

@[simp] theorem State.writeCell_rowCnt (s : State) (sp : Space) (a v : Nat) : (s.writeCell sp a v).rowCnt = s.rowCnt := by
  cases sp <;> rfl

@[simp] theorem State.writeCell_crowLen (s : State) (sp : Space) (a v : Nat) : (s.writeCell sp a v).crowLen = s.crowLen := by
  cases sp <;> rfl

@[simp] theorem State.writeCell_strLen (s : State) (sp : Space) (a v : Nat) : (s.writeCell sp a v).strLen = s.strLen := by
  cases sp <;> rfl

@[simp] theorem State.writeCell_faultRow (s : State) (sp : Space) (a v : Nat) : (s.writeCell sp a v).faultRow = s.faultRow := by
  cases sp <;> rfl

@[simp] theorem State.writeCell_faultPlane (s : State) (sp : Space) (a v : Nat) : (s.writeCell sp a v).faultPlane = s.faultPlane := by
  cases sp <;> rfl

@[simp] theorem State.writeCell_faultIpos (s : State) (sp : Space) (a v : Nat) : (s.writeCell sp a v).faultIpos = s.faultIpos := by
  cases sp <;> rfl

@[simp] theorem State.writeCell_faultOpos (s : State) (sp : Space) (a v : Nat) : (s.writeCell sp a v).faultOpos = s.faultOpos := by
  cases sp <;> rfl

@[simp] theorem State.writeCell_faultVal (s : State) (sp : Space) (a v : Nat) : (s.writeCell sp a v).faultVal = s.faultVal := by
  cases sp <;> rfl

@[simp] theorem State.writeCell_dec (s : State) (sp : Space) (a v : Nat) : (s.writeCell sp a v).dec = s.dec := by
  cases sp <;> rfl

@[simp] theorem State.writeCell_host (s : State) (sp : Space) (a v : Nat) : (s.writeCell sp a v).host = s.host := by
  cases sp <;> rfl

@[simp] theorem State.writeCell_reply (s : State) (sp : Space) (a v : Nat) : (s.writeCell sp a v).reply = s.reply := by
  cases sp <;> rfl

@[simp] theorem State.writeCell_draws (s : State) (sp : Space) (a v : Nat) : (s.writeCell sp a v).draws = s.draws := by
  cases sp <;> rfl

end Sys2Proof.Machine
end

