-- ==== Sys2Proof/Laws/Commands.lean ====
section
/-! SUPPORT. One lemma per shared operation: what issuing a command, running an opcode, taking a host action and taking a
step can do. -/

namespace Sys2Proof.Machine

/-! ### Issuing a command -/

theorem issueRow_failed {body : State → State} {s : State} (h : s.status = .failed) : issueRow body s = s := by
  simp [issueRow, h]

theorem issueRow_ready {body : State → State} {s : State} (h : s.status ≠ .failed) :
    issueRow body s = body s := by
  simp [issueRow, h]

theorem issueFrame_failed {body : Geometry → State → State} {s : State} (h : s.status = .failed) :
    issueFrame body s = s := by
  simp [issueFrame, h]

theorem issueFrame_reserved {body : Geometry → State → State} {s : State} (h : s.status ≠ .failed)
    (hg : geometryOf s.cfgFmt = none) : issueFrame body s = s.raisePlain .badConfig 3 := by
  simp [issueFrame, h, hg]

theorem issueFrame_ready {body : Geometry → State → State} {s : State} {g : Geometry} (h : s.status ≠ .failed)
    (hg : geometryOf s.cfgFmt = some g) : issueFrame body s = body g s := by
  simp [issueFrame, h, hg]

/-- Only the three geometries are selected, and only the value 3 selects none (R21). -/
theorem geometryOf_cases (cfg : BitVec 2) :
    (cfg = 0 ∧ geometryOf cfg = some geometryPI1) ∨ (cfg = 1 ∧ geometryOf cfg = some geometryPI2) ∨
      (cfg = 2 ∧ geometryOf cfg = some geometryPI3) ∨ (cfg = 3 ∧ geometryOf cfg = none) := by
  revert cfg; decide

theorem geometryOf_mem {cfg : BitVec 2} {g : Geometry} (h : geometryOf cfg = some g) :
    g = geometryPI1 ∨ g = geometryPI2 ∨ g = geometryPI3 := by
  rcases geometryOf_cases cfg with ⟨_, h'⟩ | ⟨_, h'⟩ | ⟨_, h'⟩ | ⟨_, h'⟩ <;> simp_all

/-- What holds of each of the three geometries holds of the selected one. -/
theorem geometryOf_forall {p : Geometry → Prop} (h1 : p geometryPI1) (h2 : p geometryPI2) (h3 : p geometryPI3)
    {cfg : BitVec 2} {g : Geometry} (h : geometryOf cfg = some g) : p g := by
  rcases geometryOf_mem h with rfl | rfl | rfl <;> assumption

theorem geometryOf_wf {cfg : BitVec 2} {g : Geometry} (h : geometryOf cfg = some g) : g.wf = true :=
  geometryOf_forall (p := fun g => g.wf = true) (by decide) (by decide) (by decide) h

/-- The invariant of every geometry: 32000 bytes of pixel data (R7). -/
theorem geometryOf_rawBytes {cfg : BitVec 2} {g : Geometry} (h : geometryOf cfg = some g) :
    g.rawBytes = Config.raw :=
  geometryOf_forall (p := fun g => g.rawBytes = Config.raw) (by decide) (by decide) (by decide) h

/-- The index matrix of every geometry fits IDX (R31). -/
theorem geometryOf_cellCount {cfg : BitVec 2} {g : Geometry} (h : geometryOf cfg = some g) :
    g.cellCount ≤ Config.idxCap :=
  geometryOf_forall (p := fun g => g.cellCount ≤ Config.idxCap) (by decide) (by decide) (by decide) h

/-! ### Legal lengths -/

/-- ROW_LEN is legal from 1 to 80 (R25). -/
theorem State.rowLenLegal_iff {s : State} : s.rowLenLegal = true ↔ 1 ≤ s.rowLen.toNat ∧ s.rowLen.toNat ≤ 80 := by
  simp [State.rowLenLegal]

/-- CROW_LEN is legal from 0 to 128 (R26). -/
theorem State.crowLenLegal_iff {s : State} : s.crowLenLegal = true ↔ s.crowLen.toNat ≤ 128 := by
  simp [State.crowLenLegal]

/-- STR_LEN is legal from 0 to 64000 (R27). -/
theorem State.strLenLegal_iff {s : State} : s.strLenLegal = true ↔ s.strLen.toNat ≤ 64000 := by
  simp [State.strLenLegal]

/-! ### exec -/

/-- Every command answers a next state, whatever the state: it completes, faults (a next state too), or is ignored in
FAILED. -/
theorem exec_command (i : Instr) (hi : i.isStream = false) (s : State) : ∃ t, exec i s = .next t := by
  cases i <;> first | exact ⟨_, rfl⟩ | simp [Instr.isStream] at hi

/-- In FAILED a command changes nothing (R184, R185 step 1). -/
theorem exec_command_failed (i : Instr) (hi : i.isStream = false) {s : State} (h : s.status = .failed) :
    exec i s = .next s := by
  cases i with
  | copy lits => cases hi
  | fill n val => cases hi
  | pack => simp [exec, execPack, issueFrame_failed h]
  | unpack => simp [exec, execUnpack, issueFrame_failed h]
  | encrow => simp [exec, execEncrow, issueRow_failed h]
  | decrow => simp [exec, execDecrow, issueRow_failed h]
  | encframe => simp [exec, execEncframe, issueFrame_failed h]
  | decframe => simp [exec, execDecframe, issueFrame_failed h]

/-- A stream opcode outside a decoder is no step; inside one it appends or faults. -/
theorem runOpcode_cases (f : Nat → Nat → Nat → Except StreamFault (Nat × List Byte)) (s : State) :
    (s.dec = none ∧ runOpcode f s = .refused .opcodeOutsideDecoder) ∨
      ∃ d, s.dec = some d ∧
        ((∃ ip bytes, f d.ip d.row.length (d.budget s) = .ok (ip, bytes) ∧
            runOpcode f s = .next { s with dec := some { d with ip := ip, row := d.row ++ bytes } }) ∨
          ∃ e, f d.ip d.row.length (d.budget s) = .error e ∧ runOpcode f s = .next (d.fail e s)) := by
  unfold runOpcode
  cases hd : s.dec with
  | none => simp
  | some d =>
    refine .inr ⟨d, rfl, ?_⟩
    cases hf : f d.ip d.row.length (d.budget s) with
    | error e => exact .inr ⟨e, rfl, by simp [hf]⟩
    | ok r => obtain ⟨ip, bytes⟩ := r; exact .inl ⟨ip, bytes, rfl, by simp [hf]⟩

theorem decodeCommand_isStream {v : Byte} {i : Instr} (h : decodeCommand v = .ok i) : i.isStream = false := by
  unfold decodeCommand at h
  split at h <;> cases h <;> rfl

/-! ### Host actions and steps -/

/-- Everything a host action that is a step can do. -/
theorem performAction_cases {a : HostAction} {s t : State} (h : performAction exec a s = .next t) :
    (a = .reset ∧ t = s.resetRegisters) ∨
    (∃ v, t = { s with reply := some v }) ∨
    (s.status = .failed ∧ t = s) ∨
    (∃ r v, a = .writeReg r v ∧ r ≠ cmdRegister ∧ s.status ≠ .failed ∧ t = s.writeReg r v) ∨
    (∃ sp b v, a = .writeMem sp b v ∧ b < sp.capacity ∧ s.status ≠ .failed ∧ t = s.writeCell sp b v) ∨
    (∃ v e, a = .writeReg cmdRegister v ∧ s.status ≠ .failed ∧ decodeCommand (commandByte v) = .error e ∧
      t = s.raisePlain .badCommand (commandByte v).toNat) ∨
    (∃ v i, a = .writeReg cmdRegister v ∧ s.status ≠ .failed ∧ decodeCommand (commandByte v) = .ok i ∧
      exec i s = .next t) := by
  cases a with
  | reset => exact .inl ⟨rfl, by simpa [performAction] using h.symm⟩
  | readReg r =>
    simp only [performAction, hostReadReg] at h
    split at h
    · exact .inr (.inl ⟨_, by simpa using h.symm⟩)
    · cases h
  | writeReg r v =>
    simp only [performAction, hostWriteReg] at h
    split at h
    · cases h
    split at h
    · exact .inr (.inr (.inl ⟨‹_›, by simpa using h.symm⟩))
    split at h
    · rename_i hs hr
      subst hr
      simp only [issueCommand] at h
      cases hd : decodeCommand (commandByte v) with
      | ok i => exact .inr (.inr (.inr (.inr (.inr (.inr ⟨v, i, rfl, hs, hd, by simpa [hd] using h⟩)))))
      | error e =>
        exact .inr (.inr (.inr (.inr (.inr (.inl ⟨v, e, rfl, hs, hd, by simpa [hd] using h.symm⟩)))))
    · exact .inr (.inr (.inr (.inl ⟨r, v, rfl, ‹_›, ‹_›, by simpa using h.symm⟩)))
  | readMem sp b =>
    simp only [performAction, hostReadMem] at h
    split at h
    · exact .inr (.inl ⟨_, by simpa using h.symm⟩)
    · cases h
  | writeMem sp b v =>
    simp only [performAction, hostWriteMem] at h
    split at h
    · split at h
      · exact .inr (.inr (.inl ⟨‹_›, by simpa using h.symm⟩))
      · exact .inr (.inr (.inr (.inr (.inl ⟨sp, b, v, rfl, ‹_›, ‹_›, by simpa using h.symm⟩))))
    · cases h

theorem step_between {s : State} {a : HostAction} {rest : List HostAction} (hd : s.dec = none)
    (hh : s.host = a :: rest) : step s = performAction exec a (s.takeAction rest) := by
  simp [step, hd, hh]

theorem step_waiting {s : State} (hd : s.dec = none) (hh : s.host = []) : step s = .refused .noHostAction := by
  simp [step, hd, hh]

theorem step_inside {s : State} {d : Decoder} (hd : s.dec = some d) : step s = d.step exec s := by
  simp [step, hd]

/-- Between commands a step that answers a next state took the first pending host action. -/
theorem step_next {s t : State} (hd : s.dec = none) (h : step s = .next t) :
    ∃ a rest, s.host = a :: rest ∧ performAction exec a (s.takeAction rest) = .next t := by
  cases hh : s.host with
  | nil => simp [step_waiting hd hh] at h
  | cons a rest => exact ⟨a, rest, rfl, by rw [← step_between hd hh]; exact h⟩

end Sys2Proof.Machine
end

