-- ==== Sys2Proof/Laws/Memory.lean ====
section
/-! SUPPORT. The laws of the memories: reading after writing, ranges, and the canonical form. -/

namespace Sys2Proof.Machine

variable {w : Nat}

theorem lookupCell_insertCell_same (a : Nat) (v : BitVec w) (l : List (Nat × BitVec w)) :
    lookupCell a (insertCell a v l) = some v := by
  induction l with
  | nil => simp [insertCell, lookupCell]
  | cons c t ih =>
    obtain ⟨b, u⟩ := c
    simp only [insertCell]
    split
    · simp [lookupCell]
    · split
      · simp [lookupCell]
      · simp [lookupCell, *]

theorem lookupCell_insertCell_ne {a b : Nat} (h : b ≠ a) (v : BitVec w) (l : List (Nat × BitVec w)) :
    lookupCell b (insertCell a v l) = lookupCell b l := by
  induction l with
  | nil => simp [insertCell, lookupCell, h]
  | cons c t ih =>
    obtain ⟨e, u⟩ := c
    simp only [insertCell]
    split
    · simp [lookupCell, h]
    · split
      · simp_all [lookupCell]
      · simp [lookupCell, ih]

theorem lookupCell_append (a : Nat) (l l' : List (Nat × BitVec w)) :
    lookupCell a (l ++ l') = (lookupCell a l).or (lookupCell a l') := by
  induction l with
  | nil => simp [lookupCell]
  | cons c t ih =>
    obtain ⟨b, u⟩ := c
    simp only [List.cons_append, lookupCell]
    split <;> simp [*]

theorem lookupCell_filter (a n : Nat) (l : List (Nat × BitVec w)) :
    lookupCell a (l.filter fun c => decide (n ≤ c.1)) = if n ≤ a then lookupCell a l else none := by
  induction l with
  | nil => simp [lookupCell]
  | cons c t ih =>
    obtain ⟨b, u⟩ := c
    simp only [List.filter_cons, lookupCell]
    by_cases hb : n ≤ b <;> by_cases hab : a = b
    · subst hab; simp [hb, lookupCell]
    · simp [hb, hab, lookupCell, ih]
    · subst hab; simp [hb, ih]
    · simp [hb, hab, ih]

/-- The cells `writeRange` lists, from address `n` on. -/
theorem lookupCell_zip_range' (a n : Nat) (l : List (BitVec w)) :
    lookupCell a ((List.range' n l.length).zip l) = if n ≤ a then l[a - n]? else none := by
  induction l generalizing n with
  | nil => simp [lookupCell]
  | cons v t ih =>
    simp only [List.length_cons, List.range'_succ, List.zip_cons_cons, lookupCell, ih]
    by_cases h : a = n
    · simp [h]
    · by_cases h' : n ≤ a
      · have h1 : n + 1 ≤ a := by omega
        have h2 : a - n = a - (n + 1) + 1 := by omega
        simp [h, h', h1, h2]
      · have h1 : ¬ n + 1 ≤ a := by omega
        simp [h, h', h1]

@[simp] theorem Memory.read_unspecified (d a : Nat) :
    (Memory.unspecified d : Memory w).read a = Config.freeValue w d a := rfl

@[simp] theorem Memory.read_write_same (m : Memory w) (a : Nat) (v : BitVec w) : (m.write a v).read a = v := by
  simp [Memory.read, Memory.write, lookupCell_insertCell_same]

theorem Memory.read_write_ne (m : Memory w) {a b : Nat} (h : b ≠ a) (v : BitVec w) :
    (m.write a v).read b = m.read b := by
  simp [Memory.read, Memory.write, Memory.unlisted, lookupCell_insertCell_ne h]

theorem Memory.read_writeRange (m : Memory w) (l : List (BitVec w)) (a : Nat) :
    (m.writeRange l).read a = l[a]?.getD (m.read a) := by
  have h0 := lookupCell_zip_range' a 0 l
  simp only [← List.range_eq_range', Nat.zero_le, if_true, Nat.sub_zero] at h0
  simp only [Memory.read, Memory.writeRange, Memory.unlisted, lookupCell_append, h0, lookupCell_filter]
  by_cases h : l.length ≤ a
  · simp [h]
  · simp [h, List.getElem?_eq_getElem (Nat.lt_of_not_le h)]

/-- A destination after a successful command: the written bytes below, the old ones above (D29). -/
theorem Memory.holds_writeRange (m : Memory w) (l : List (BitVec w)) : (m.writeRange l).holds m l := by
  refine ⟨fun a h => ?_, fun a h => ?_⟩
  · simp [Memory.read_writeRange, List.getElem?_eq_getElem h]
  · simp [Memory.read_writeRange, h]

@[simp] theorem Memory.length_readRange (m : Memory w) (n : Nat) : (m.readRange n).length = n := by
  simp [Memory.readRange]

@[simp] theorem Memory.getElem_readRange (m : Memory w) (n a : Nat) (h : a < (m.readRange n).length) :
    (m.readRange n)[a] = m.read a := by
  simp [Memory.readRange]

theorem Memory.readRange_congr {m m' : Memory w} {n : Nat} (h : ∀ a, a < n → m.read a = m'.read a) :
    m.readRange n = m'.readRange n := by
  simp only [Memory.readRange]
  exact List.map_congr_left fun a ha => h a (List.mem_range.mp ha)

/-- Reading back the range that was written gives what was written. -/
theorem Memory.readRange_writeRange (m : Memory w) (l : List (BitVec w)) :
    (m.writeRange l).readRange l.length = l := by
  refine List.ext_getElem (by simp) fun a h _ => ?_
  rw [Memory.getElem_readRange]
  exact (m.holds_writeRange l).1 a (by simpa using h)

/-! ### The canonical form -/

@[simp] theorem Memory.wf_unspecified (cap d : Nat) : (Memory.unspecified d : Memory w).wf cap = true := by
  simp [Memory.wf, Memory.unspecified]

/-- The canonical form, spelt out. -/
theorem Memory.wf_iff {cap : Nat} {m : Memory w} :
    m.wf cap = true ↔ (m.cells.map Prod.fst).Pairwise (· < ·) ∧ ∀ c ∈ m.cells, c.1 < cap := by
  simp [Memory.wf]

theorem mem_insertCell {a : Nat} {v : BitVec w} {l : List (Nat × BitVec w)} {c : Nat × BitVec w}
    (h : c ∈ insertCell a v l) : c.1 = a ∨ c ∈ l := by
  induction l with
  | nil => simp_all [insertCell]
  | cons e t ih =>
    obtain ⟨b, u⟩ := e
    simp only [insertCell] at h
    split at h
    · rcases List.mem_cons.mp h with rfl | h
      · exact .inl rfl
      · exact .inr h
    · split at h
      · rcases List.mem_cons.mp h with rfl | h
        · exact .inl rfl
        · exact .inr (List.mem_cons_of_mem _ h)
      · rcases List.mem_cons.mp h with rfl | h
        · exact .inr (List.mem_cons_self ..)
        · exact (ih h).imp_right (List.mem_cons_of_mem _)

theorem pairwise_insertCell {a : Nat} {v : BitVec w} {l : List (Nat × BitVec w)}
    (h : (l.map Prod.fst).Pairwise (· < ·)) : ((insertCell a v l).map Prod.fst).Pairwise (· < ·) := by
  induction l with
  | nil => simp [insertCell]
  | cons e t ih =>
    obtain ⟨b, u⟩ := e
    simp only [List.map_cons, List.pairwise_cons] at h
    simp only [insertCell]
    split
    · rename_i hab
      simp only [List.map_cons, List.pairwise_cons, List.mem_cons]
      exact ⟨by rintro x (rfl | hx) <;> [exact hab; exact hab.trans (h.1 x hx)], h⟩
    · split
      · rename_i hab
        subst hab
        simpa only [List.map_cons, List.pairwise_cons] using h
      · rename_i h1 h2
        simp only [List.map_cons, List.pairwise_cons]
        refine ⟨fun x hx => ?_, ih h.2⟩
        obtain ⟨c, hc, rfl⟩ := List.mem_map.mp hx
        rcases mem_insertCell hc with he | hc
        · omega
        · exact h.1 _ (List.mem_map_of_mem hc)

/-- A write below the capacity keeps the canonical form. -/
theorem Memory.wf_write {cap a : Nat} (m : Memory w) (v : BitVec w) (h : m.wf cap = true) (ha : a < cap) :
    (m.write a v).wf cap = true := by
  rw [Memory.wf_iff] at h ⊢
  refine ⟨pairwise_insertCell h.1, fun c hc => ?_⟩
  rcases mem_insertCell hc with he | hc
  · omega
  · exact h.2 c hc

/-- Writing at most `cap` cells from address 0 keeps the canonical form. -/
theorem Memory.wf_writeRange {cap : Nat} (m : Memory w) (l : List (BitVec w)) (h : m.wf cap = true)
    (hl : l.length ≤ cap) : (m.writeRange l).wf cap = true := by
  rw [Memory.wf_iff] at h ⊢
  simp only [Memory.writeRange]
  have hz : ((List.range l.length).zip l).map Prod.fst = List.range l.length := List.map_fst_zip (by simp)
  refine ⟨?_, fun c hc => ?_⟩
  · rw [List.map_append, hz, List.pairwise_append]
    refine ⟨List.pairwise_lt_range, h.1.sublist ((List.filter_sublist).map _), fun x hx y hy => ?_⟩
    obtain ⟨c, hc, rfl⟩ := List.mem_map.mp hy
    have h1 := List.mem_range.mp hx
    have h2 := (List.mem_filter.mp hc).2
    simp only [decide_eq_true_eq] at h2
    omega
  · rcases List.mem_append.mp hc with hc | hc
    · have h1 : c.1 ∈ List.range l.length := hz ▸ List.mem_map_of_mem hc
      have h2 := List.mem_range.mp h1
      omega
    · exact h.2 c (List.mem_filter.mp hc).1

@[simp] theorem Memory.written_unspecified (d a : Nat) : (Memory.unspecified d : Memory w).written a = false := rfl

@[simp] theorem Memory.freshFrom_unspecified (d k : Nat) :
    (Memory.unspecified d : Memory w).freshFrom k = true ↔ k ≤ d := by
  simp only [Memory.freshFrom, Bool.and_eq_true, decide_eq_true_eq]
  simp [Memory.unspecified]

end Sys2Proof.Machine
end

