-- ==== Sys2Proof/Laws/PerInstr.lean ====
section
/-! SUPPORT. Statements made per instruction: every well-formed instruction's first byte fits its row's mask and match in
spec/opcode_table.json. -/

namespace Sys2Proof.Laws.TableRow

/-- The mask of an instruction's row. -/
def mask : Instr → Byte
  | .copy _ => 0x80#8
  | .fill _ _ => 0x80#8
  | .pack => 0xFF#8
  | .unpack => 0xFF#8
  | .encrow => 0xFF#8
  | .decrow => 0xFF#8
  | .encframe => 0xFF#8
  | .decframe => 0xFF#8

/-- The match of an instruction's row. -/
def rowMatch : Instr → Byte
  | .copy _ => 0x00#8
  | .fill _ _ => 0x80#8
  | .pack => 0x01#8
  | .unpack => 0x02#8
  | .encrow => 0x03#8
  | .decrow => 0x04#8
  | .encframe => 0x05#8
  | .decframe => 0x06#8

/-- The first byte of a well-formed instruction's encoding is of its own row (R90). -/
def Statement (i : Instr) : Prop :=
  i.wf = true → (encode i).headD 0 &&& mask i = rowMatch i

theorem copy (lits : List Byte) : Statement (.copy lits) := by
  intro h
  simp only [Instr.wf, Bool.and_eq_true, decide_eq_true_eq] at h
  have key : ∀ n : Fin 128, BitVec.ofNat 8 n.val &&& 0x80#8 = 0x00#8 := by decide
  exact key ⟨lits.length - 1, by omega⟩

theorem fill (n : Nat) (val : Byte) : Statement (.fill n val) := by
  intro h
  simp only [Instr.wf, Bool.and_eq_true, decide_eq_true_eq] at h
  have key : ∀ n : Fin 128, BitVec.ofNat 8 (n.val + 128) &&& 0x80#8 = 0x80#8 := by decide
  have h1 := key ⟨129 - n, by omega⟩
  have h2 : 129 - n + 128 = 257 - n := by omega
  simpa [encode, mask, rowMatch, h2] using h1

theorem pack : Statement .pack := fun _ => by decide
theorem unpack : Statement .unpack := fun _ => by decide
theorem encrow : Statement .encrow := fun _ => by decide
theorem decrow : Statement .decrow := fun _ => by decide
theorem encframe : Statement .encframe := fun _ => by decide
theorem decframe : Statement .decframe := fun _ => by decide

end Sys2Proof.Laws.TableRow
end

