-- ==== Sys2Proof/Laws/Stream.lean ====
section
/-! SUPPORT. What decoding one opcode and running it can do, and the lengths of the decoders' results. -/

namespace Sys2Proof.Machine

theorem opcodeCount_pos (c : Byte) : 1 ≤ opcodeCount c := by
  have := c.isLt
  unfold opcodeCount
  split <;> omega

theorem opcodeCount_le (c : Byte) : opcodeCount c ≤ 129 := by
  have := c.isLt
  unfold opcodeCount
  split <;> omega

/-- A control byte with what follows it: cut off, a COPY, or a FILL. -/
theorem decodeStream_cases (c : Byte) (rest : List Byte) :
    decodeStream (c :: rest) = .error (.truncated (opcodeCount c)) ∨
    (c.toNat < 128 ∧ opcodeCount c ≤ rest.length ∧
      decodeStream (c :: rest) = .ok (.copy (rest.take (opcodeCount c)), rest.drop (opcodeCount c))) ∨
    (128 ≤ c.toNat ∧ ∃ v rest', rest = v :: rest' ∧
      decodeStream (c :: rest) = .ok (.fill (opcodeCount c) v, rest')) := by
  by_cases h : c.toNat < 128
  · by_cases h' : rest.length < opcodeCount c
    · exact .inl (by simp [decodeStream, h, h'])
    · exact .inr (.inl ⟨h, by omega, by simp [decodeStream, h, h']⟩)
  · cases rest with
    | nil => exact .inl (by simp [decodeStream, h])
    | cons v rest' => exact .inr (.inr ⟨by omega, v, rest', rfl, by simp [decodeStream, h]⟩)

/-- Inside the budget a COPY moves ip past itself and appends its literals; else it overflows (R121, R122). -/
theorem copyOp_cases (lits : List Byte) (ip op budget : Nat) :
    (op + lits.length ≤ budget ∧ copyOp lits ip op budget = .ok (ip + 1 + lits.length, lits)) ∨
      (budget < op + lits.length ∧
        copyOp lits ip op budget =
          .error { cause := .rleOverflow, ipos := ip, opos := op, val := lits.length }) := by
  by_cases h : budget < op + lits.length
  · exact .inr ⟨h, by simp [copyOp, overflows, h]⟩
  · exact .inl ⟨by omega, by simp [copyOp, overflows, h]⟩

/-- Inside the budget a FILL moves ip past itself and appends its byte n times; else it overflows (R121, R123). -/
theorem fillOp_cases (n : Nat) (v : Byte) (ip op budget : Nat) :
    (op + n ≤ budget ∧ fillOp n v ip op budget = .ok (ip + 2, List.replicate n v)) ∨
      (budget < op + n ∧
        fillOp n v ip op budget = .error { cause := .rleOverflow, ipos := ip, opos := op, val := n }) := by
  by_cases h : budget < op + n
  · exact .inr ⟨h, by simp [fillOp, overflows, h]⟩
  · exact .inl ⟨by omega, by simp [fillOp, overflows, h]⟩

/-- An opcode the input cuts off: RLE_OVERFLOW or RLE_TRUNCATED, with its offset and length (R125, R210). -/
theorem cutOpcodeFault_fields (n ip op budget : Nat) :
    (((cutOpcodeFault n ip op budget).cause = .rleOverflow ∧ budget < op + n) ∨
        ((cutOpcodeFault n ip op budget).cause = .rleTruncated ∧ op + n ≤ budget)) ∧
      (cutOpcodeFault n ip op budget).ipos = ip ∧ (cutOpcodeFault n ip op budget).opos = op ∧
      (cutOpcodeFault n ip op budget).val = n := by
  by_cases h : budget < op + n
  · simp [cutOpcodeFault, overflows, h]
  · simp [cutOpcodeFault, overflows, h]; omega

/-- A completed opcode moves ip by at least two, produces 1 to 129 bytes, and keeps within the budget (R121). -/
theorem decodeOp_ok {inp : List Byte} {ip op budget ip' : Nat} {bytes : List Byte}
    (h : decodeOp inp ip op budget = .ok (ip', bytes)) :
    ip < inp.length ∧ ip + 2 ≤ ip' ∧ ip' ≤ inp.length ∧ 1 ≤ bytes.length ∧ bytes.length ≤ 129 ∧
      op + bytes.length ≤ budget := by
  by_cases hip : ip < inp.length
  · refine ⟨hip, ?_⟩
    have hp := opcodeCount_pos inp[ip]
    have hl := opcodeCount_le inp[ip]
    rw [decodeOp, List.drop_eq_getElem_cons hip] at h
    rcases decodeStream_cases inp[ip] (inp.drop (ip + 1)) with hc | ⟨-, hn, hc⟩ | ⟨-, v, rest', hr, hc⟩
    · rw [hc] at h
      cases h
    · have hlen : ((inp.drop (ip + 1)).take (opcodeCount inp[ip])).length = opcodeCount inp[ip] := by
        rw [List.length_take]; omega
      rw [List.length_drop] at hn
      rw [hc] at h
      change copyOp _ ip op budget = _ at h
      rcases copyOp_cases ((inp.drop (ip + 1)).take (opcodeCount inp[ip])) ip op budget with ⟨hb, he⟩ | ⟨hb, he⟩
      · rw [he, Except.ok.injEq, Prod.mk.injEq] at h
        obtain ⟨rfl, rfl⟩ := h
        rw [hlen] at hb ⊢
        omega
      · rw [he] at h
        cases h
    · have hrl := congrArg List.length hr
      rw [List.length_drop, List.length_cons] at hrl
      rw [hc] at h
      change fillOp _ v ip op budget = _ at h
      rcases fillOp_cases (opcodeCount inp[ip]) v ip op budget with ⟨hb, he⟩ | ⟨hb, he⟩
      · rw [he, Except.ok.injEq, Prod.mk.injEq] at h
        obtain ⟨rfl, rfl⟩ := h
        rw [List.length_replicate]
        omega
      · rw [he] at h
        cases h
  · rw [decodeOp, List.drop_eq_nil_of_le (by omega)] at h
    cases h

/-- A fault at an opcode of an input of `len` bytes, in a row-plane of `budget` bytes (R207): RLE_OVERFLOW when the length
passes what is missing, else RLE_TRUNCATED. -/
def StreamFault.atOpcode (e : StreamFault) (len budget : Nat) : Prop :=
  ((e.cause = .rleOverflow ∧ budget < e.opos + e.val) ∨ (e.cause = .rleTruncated ∧ e.opos + e.val ≤ budget)) ∧
    e.ipos < len ∧ e.opos ≤ budget ∧ 1 ≤ e.val ∧ e.val ≤ 129

/-- A fault of the opcode step: RLE_OVERFLOW or RLE_TRUNCATED at the control byte, with the opcode's length (R121). -/
theorem decodeOp_error {inp : List Byte} {ip op budget : Nat} {e : StreamFault} (hip : ip < inp.length)
    (h : decodeOp inp ip op budget = .error e) :
    ((e.cause = .rleOverflow ∧ budget < op + e.val) ∨ (e.cause = .rleTruncated ∧ op + e.val ≤ budget)) ∧
      e.ipos = ip ∧ e.opos = op ∧ e.val = opcodeCount inp[ip] := by
  rw [decodeOp, List.drop_eq_getElem_cons hip] at h
  rcases decodeStream_cases inp[ip] (inp.drop (ip + 1)) with hc | ⟨-, hn, hc⟩ | ⟨-, v, rest', -, hc⟩
  · rw [hc] at h
    cases h
    obtain ⟨hc, h1, h2, h3⟩ := cutOpcodeFault_fields (opcodeCount inp[ip]) ip op budget
    rw [h3]
    exact ⟨hc, h1, h2, rfl⟩
  · have hlen : ((inp.drop (ip + 1)).take (opcodeCount inp[ip])).length = opcodeCount inp[ip] := by
      rw [List.length_take]; omega
    rw [hc] at h
    change copyOp _ ip op budget = _ at h
    rcases copyOp_cases ((inp.drop (ip + 1)).take (opcodeCount inp[ip])) ip op budget with ⟨-, he⟩ | ⟨hb, he⟩ <;>
      rw [he] at h <;> cases h
    exact ⟨.inl ⟨rfl, hb⟩, rfl, rfl, hlen⟩
  · rw [hc] at h
    change fillOp _ v ip op budget = _ at h
    rcases fillOp_cases (opcodeCount inp[ip]) v ip op budget with ⟨-, he⟩ | ⟨hb, he⟩ <;> rw [he] at h <;> cases h
    exact ⟨.inl ⟨rfl, hb⟩, rfl, rfl, rfl⟩

/-- The same with the ranges of the context (R207). -/
theorem decodeOp_error_atOpcode {inp : List Byte} {ip op budget : Nat} {e : StreamFault} (hip : ip < inp.length)
    (hb : op ≤ budget) (h : decodeOp inp ip op budget = .error e) : e.atOpcode inp.length budget ∧ e.opos = op := by
  obtain ⟨hc, h1, h2, h3⟩ := decodeOp_error hip h
  have hp := opcodeCount_pos inp[ip]
  have hl := opcodeCount_le inp[ip]
  refine ⟨⟨by rw [h2]; exact hc, ?_⟩, h2⟩
  omega

/-- The row decoder's result extends the output it starts from and keeps within the budget. -/
theorem rleDecodeFrom_ok {inp : List Byte} {budget fuel ip : Nat} {out r : List Byte} (hb : out.length ≤ budget)
    (h : rleDecodeFrom inp budget fuel ip out = .ok r) : r.length ≤ budget ∧ out <+: r := by
  induction fuel generalizing ip out with
  | zero =>
    simp only [rleDecodeFrom, Except.ok.injEq] at h
    subst h
    exact ⟨hb, List.prefix_rfl⟩
  | succ fuel ih =>
    simp only [rleDecodeFrom] at h
    split at h
    · split at h
      · cases h
      · rename_i ip' bytes hop
        obtain ⟨-, -, -, -, -, hbud⟩ := decodeOp_ok hop
        obtain ⟨h1, h2⟩ := ih (by rw [List.length_append]; omega) h
        exact ⟨h1, (List.prefix_append ..).trans h2⟩
    · simp only [Except.ok.injEq] at h
      subst h
      exact ⟨hb, List.prefix_rfl⟩

/-- A fault of the row decoder is one of the opcode step. -/
theorem rleDecodeFrom_error {inp : List Byte} {budget fuel ip : Nat} {out : List Byte} {e : StreamFault}
    (hb : out.length ≤ budget) (h : rleDecodeFrom inp budget fuel ip out = .error e) :
    e.atOpcode inp.length budget := by
  induction fuel generalizing ip out with
  | zero => cases h
  | succ fuel ih =>
    simp only [rleDecodeFrom] at h
    split at h
    · rename_i hip
      split at h
      · rename_i e' hop
        simp only [Except.error.injEq] at h
        subst h
        exact (decodeOp_error_atOpcode hip hb hop).1
      · rename_i ip' bytes hop
        obtain ⟨-, -, -, -, -, hbud⟩ := decodeOp_ok hop
        exact ih (by rw [List.length_append]; omega) h
    · cases h

/-- A fault of the frame decoder inside a row-plane: the row-plane is incomplete, and the fault is one of the opcode step,
or the input ended between opcodes (R167, R170). -/
theorem decodeRowPlane_error {g : Geometry} {inp : List Byte} {fuel ip : Nat} {row : List Byte} {e : StreamFault}
    (hip : ip ≤ inp.length) (h : decodeRowPlane g inp fuel ip row = .error e) :
    e.opos < g.rowBytes ∧
      (e.atOpcode inp.length g.rowBytes ∨ (e.cause = .rleTruncated ∧ e.ipos = inp.length ∧ e.val = 0)) := by
  induction fuel generalizing ip row with
  | zero => cases h
  | succ fuel ih =>
    simp only [decodeRowPlane] at h
    split at h
    · rename_i hrow
      split at h
      · simp only [Except.error.injEq] at h
        subst h
        exact ⟨hrow, .inr ⟨rfl, by simp only; omega, rfl⟩⟩
      · split at h
        · rename_i e' hop
          simp only [Except.error.injEq] at h
          subst h
          obtain ⟨h1, h2⟩ := decodeOp_error_atOpcode (by omega) (by omega) hop
          exact ⟨by omega, .inl h1⟩
        · rename_i ip' bytes hop
          exact ih (decodeOp_ok hop).2.2.1 h
    · cases h

/-- Decoding a row-plane leaves the stream pointer in the input. -/
theorem decodeRowPlane_ok_le {g : Geometry} {inp : List Byte} {fuel ip ip' : Nat} {row row' : List Byte}
    (hip : ip ≤ inp.length) (h : decodeRowPlane g inp fuel ip row = .ok (ip', row')) : ip' ≤ inp.length := by
  induction fuel generalizing ip row with
  | zero =>
    simp only [decodeRowPlane, Except.ok.injEq, Prod.mk.injEq] at h
    omega
  | succ fuel ih =>
    simp only [decodeRowPlane] at h
    split at h
    · split at h
      · cases h
      · split at h
        · cases h
        · rename_i ip'' bytes hop
          exact ih (decodeOp_ok hop).2.2.1 h
    · simp only [Except.ok.injEq, Prod.mk.injEq] at h
      omega

/-- A fault of the frame decoder's outer loops is one inside a row-plane of those still to decode (R162, R167). -/
theorem decodeRowPlanes_error {g : Geometry} {inp : List Byte} {n q ip : Nat} {f : FaultRecord}
    (hip : ip ≤ inp.length) (h : decodeRowPlanes g inp n q ip = .error f) :
    ∃ q' e, q ≤ q' ∧ q' < q + n ∧ f = rowFault g q' e ∧ e.opos < g.rowBytes ∧
      (e.atOpcode inp.length g.rowBytes ∨ (e.cause = .rleTruncated ∧ e.ipos = inp.length ∧ e.val = 0)) := by
  induction n generalizing q ip with
  | zero => cases h
  | succ n ih =>
    simp only [decodeRowPlanes] at h
    split at h
    · rename_i e he
      simp only [Except.error.injEq] at h
      exact ⟨q, e, by omega, by omega, h.symm, decodeRowPlane_error hip he⟩
    · rename_i ip' row hok
      split at h
      · rename_i f' hf
        simp only [Except.error.injEq] at h
        subst h
        obtain ⟨q', e, h1, h2, h3⟩ := ih (decodeRowPlane_ok_le hip hok) hf
        exact ⟨q', e, by omega, by omega, h3⟩
      · cases h

/-- Every fault of the frame decoder (R167): inside row-plane `q`, or input left after the last one. -/
theorem decodeFrame_error {g : Geometry} {inp : List Byte} {f : FaultRecord} (h : decodeFrame g inp = .error f) :
    (∃ q e, q < g.rowPlanes ∧ f = rowFault g q e ∧ e.opos < g.rowBytes ∧
      (e.atOpcode inp.length g.rowBytes ∨ (e.cause = .rleTruncated ∧ e.ipos = inp.length ∧ e.val = 0))) ∨
      ∃ ip, ip < inp.length ∧ f = trailingFault g ip := by
  simp only [decodeFrame] at h
  split at h
  · rename_i f' hf
    simp only [Except.error.injEq] at h
    subst h
    obtain ⟨q, e, -, h2, h3⟩ := decodeRowPlanes_error (Nat.zero_le _) hf
    exact .inl ⟨q, e, by omega, h3⟩
  · split at h
    · rename_i ip rows _ hlt
      simp only [Except.error.injEq] at h
      exact .inr ⟨ip, hlt, h.symm⟩
    · cases h

/-! ### Lengths -/

@[simp] theorem length_wordToBytes (w : PlaneWord) : (wordToBytes w).length = 2 := rfl

theorem length_flatMap_const {α β : Type} (f : α → List β) (n : Nat) (l : List α) (h : ∀ a ∈ l, (f a).length = n) :
    (l.flatMap f).length = l.length * n := by
  induction l with
  | nil => simp
  | cons a t ih =>
    rw [List.flatMap_cons, List.length_append, h a (List.mem_cons_self ..),
      ih fun b hb => h b (List.mem_cons_of_mem _ hb), List.length_cons, Nat.succ_mul, Nat.add_comm]

theorem length_pack (g : Geometry) (m : List IndexCell) :
    (pack g m).length = g.h * (g.tiles * (g.planes * 2)) := by
  unfold pack
  rw [length_flatMap_const _ (g.tiles * (g.planes * 2)), List.length_range]
  intro y _
  rw [length_flatMap_const _ (g.planes * 2), List.length_range]
  intro t _
  rw [length_flatMap_const _ 2, List.length_range]
  intro z _
  rfl

theorem length_unpack (g : Geometry) (d : List Byte) : (unpack g d).length = g.h * (g.tiles * 16) := by
  unfold unpack
  rw [length_flatMap_const _ (g.tiles * 16), List.length_range]
  intro y _
  rw [length_flatMap_const _ 16, List.length_range]
  intro t _
  simp

@[simp] theorem length_gather (g : Geometry) (d : List Byte) (y z : Nat) : (gather g d y z).length = g.rowBytes := by
  simp [gather]

theorem length_foldl_set (f : Nat → Nat) (r : Nat → Byte) (l : List Nat) (d : List Byte) :
    (l.foldl (fun d j => d.set (f j) (r j)) d).length = d.length := by
  induction l generalizing d with
  | nil => rfl
  | cons a t ih => rw [List.foldl_cons, ih, List.length_set]

@[simp] theorem length_scatter (g : Geometry) (d : List Byte) (y z : Nat) (r : List Byte) :
    (scatter g d y z r).length = d.length :=
  length_foldl_set _ (fun j => r.getD j 0) _ _

theorem length_scatterFrom (g : Geometry) (q : Nat) (rs : List (List Byte)) (d : List Byte) :
    (scatterFrom g q rs d).length = d.length := by
  induction rs generalizing q d with
  | nil => rfl
  | cons r rs ih => rw [scatterFrom, ih, length_scatter]

@[simp] theorem length_assemblePlanes (g : Geometry) (rows : List (List Byte)) :
    (assemblePlanes g rows).length = g.rawBytes := by
  rw [assemblePlanes, length_scatterFrom, List.length_replicate]

/-- A packed matrix is as long as the raw data of its geometry (R100). -/
theorem length_pack_eq_rawBytes {g : Geometry} (hg : g.wf = true) (m : List IndexCell) :
    (pack g m).length = g.rawBytes := by
  simp only [Geometry.wf, Bool.and_eq_true, decide_eq_true_eq] at hg
  have hw : g.w = 16 * g.tiles := by unfold Geometry.tiles; omega
  have h16 : g.w * g.h * g.planes = 8 * (g.h * (g.tiles * (g.planes * 2))) := by rw [hw]; ring
  rw [length_pack, Geometry.rawBytes, h16, Nat.mul_div_cancel_left _ (by decide)]

/-- An unpacked matrix has one cell per pixel (R105). -/
theorem length_unpack_eq_cellCount {g : Geometry} (hg : g.wf = true) (d : List Byte) :
    (unpack g d).length = g.cellCount := by
  simp only [Geometry.wf, Bool.and_eq_true, decide_eq_true_eq] at hg
  have hw : g.w = 16 * g.tiles := by unfold Geometry.tiles; omega
  rw [length_unpack, Geometry.cellCount, hw]
  ring

end Sys2Proof.Machine
end

