-- ==== Sys2Proof/Tests/Slice0.lean ====
section
/-! SUPPORT. The model's own tests, with expected results from the vectors of 95_test_vectors.md or worked out by hand from
the rules, and, for every obligation that has hypotheses, a concrete case that meets them. -/

namespace Sys2Proof.Tests
open Sys2Proof Sys2Proof.Machine

/-! ### Small states -/

/-- A memory whose first cells are known. -/
def mem {w : Nat} (l : List (BitVec w)) : Memory w := (Memory.unspecified 0).writeRange l

/-- Just after reset, with host actions still to take. -/
def idle (h : List HostAction) : State := { State.reset with host := h }

/-- After the reserved command 0x00 (H2), with host actions still to take. -/
def failed (h : List HostAction) : State := { State.reset.raisePlain .badCommand 0 with host := h }

/-- Row buffers and their lengths. -/
def rowState (raw coded : List Byte) (rowLen crowLen : BitVec 8) : State :=
  { State.reset with rpb := mem raw, cpb := mem coded, rowLen := rowLen, crowLen := crowLen }

/-- A stream, its length and a geometry selection. -/
def frameState (cfg : BitVec 2) (stream : List Byte) (strLen : BitVec 17) : State :=
  { State.reset with cfgFmt := cfg, str := mem stream, strLen := strLen }

/-- An index memory and a geometry selection. -/
def idxState (cfg : BitVec 2) (cells : List IndexCell) : State :=
  { State.reset with cfgFmt := cfg, idx := mem cells }

/-- Inside a DECROW of budget 40 over the stream of P1, at `ip` with `row` already produced. -/
def insideRow (ip : Nat) (row : List Byte) : State :=
  { rowState [] [0x02#8, 0x41#8, 0x42#8, 0x43#8, 0xFD#8, 0x00#8, 0x00#8, 0xFF#8, 0xFF#8, 0x80#8] 40#8 10#8 with
    dec := some { geom := none, ip := ip, row := row, rows := [] } }

/-- Inside a DECFRAME under PI1 over `stream`, at its beginning. -/
def insideFrame (stream : List Byte) (len : BitVec 17) : State :=
  (frameState 0 stream len).beginDecframe geometryPI1

/-- The state an outcome carries. -/
def after (o : Host.Outcome State Fault Refusal) : State :=
  match o with
  | .next t => t
  | .fault _ => State.reset
  | .refused _ => State.reset

/-- The fault registers, as numbers. -/
def faultOf (s : State) : List Nat :=
  [s.status.code, s.fault.code, s.faultRow.toNat, s.faultPlane.toNat, s.faultIpos.toNat, s.faultOpos.toNat,
    s.faultVal.toNat]

/-- The toy geometry of 95_test_vectors.md section 5. -/
def toy : Geometry := { w := 32, h := 2, l := 1 }

/-- The pack output of vector B4. -/
def bytesB4 : List Byte :=
  [0x55#8, 0x55#8, 0x33#8, 0x33#8, 0x55#8, 0x55#8, 0x33#8, 0x33#8,
    0xAA#8, 0xAA#8, 0x66#8, 0x66#8, 0xAA#8, 0xAA#8, 0x66#8, 0x66#8]

/-! ### Ill-formed terms are refused (R81, R82) -/

theorem test_wf_copy_empty : (Instr.copy []).wf = false := by decide
theorem test_wf_copy_129 : (Instr.copy (List.replicate 129 0x00#8)).wf = false := by decide +kernel
theorem test_wf_copy_128 : (Instr.copy (List.replicate 128 0x00#8)).wf = true := by decide +kernel
theorem test_wf_fill_1 : (Instr.fill 1 0x00#8).wf = false := by decide
theorem test_wf_fill_130 : (Instr.fill 130 0x00#8).wf = false := by decide
theorem test_wf_fill_129 : (Instr.fill 129 0x00#8).wf = true := by decide

/-! ### Decoding, words written out bit by bit from R81, R82, R88 -/

theorem test_decode_copy :
    decodeStream [0b00000010#8, 0x41#8, 0x42#8, 0x43#8, 0b11111101#8]
      = .ok (.copy [0x41#8, 0x42#8, 0x43#8], [0b11111101#8]) := by decide
theorem test_decode_copy_128 :
    decodeStream (0b01111111#8 :: List.replicate 128 0x07#8) = .ok (.copy (List.replicate 128 0x07#8), []) := by decide +kernel
theorem test_decode_fill : decodeStream [0b11111101#8, 0x00#8] = .ok (.fill 4 0x00#8, []) := by decide
theorem test_decode_fill_80 : decodeStream [0b10000000#8, 0x55#8] = .ok (.fill 129 0x55#8, []) := by decide
theorem test_decode_pack : decodeCommand 0b00000001#8 = .ok .pack := by decide
theorem test_decode_unpack : decodeCommand 0b00000010#8 = .ok .unpack := by decide
theorem test_decode_encrow : decodeCommand 0b00000011#8 = .ok .encrow := by decide
theorem test_decode_decrow : decodeCommand 0b00000100#8 = .ok .decrow := by decide
theorem test_decode_encframe : decodeCommand 0b00000101#8 = .ok .encframe := by decide
theorem test_decode_decframe : decodeCommand 0b00000110#8 = .ok .decframe := by decide
theorem test_decode_reserved : decodeCommand 0x09#8 = .error (.reservedCommand 0x09#8) := by decide
theorem test_decode_cut : decodeStream [0x01#8, 0x41#8] = .error (.truncated 2) := by decide

/-- R91's examples. -/
theorem test_assemble :
    assemble [.copy [0x41#8, 0x42#8, 0x43#8], .fill 4 0x00#8]
      = [0x02#8, 0x41#8, 0x42#8, 0x43#8, 0xFD#8, 0x00#8] := by decide

theorem test_table_words :
    [0x00, 0x80, 0x01, 0x02, 0x03, 0x04, 0x05, 0x06].map (decodeTableWord 8)
      = [some (.copy [0x00#8]), some (.fill 129 0x00#8), some .pack, some .unpack, some .encrow, some .decrow,
          some .encframe, some .decframe] := by decide +kernel

/-- A placed stream opcode is run by the next step: COPY of one zero byte. -/
theorem test_placed_copy :
    (after (step (State.reset.withFetchWord 8 0x00))).dec
      = some { geom := some geometryPI1, ip := 2, row := [0x00#8], rows := [] } := by decide +kernel

/-- A placed command is run by the next step: ENCROW straight after reset is BAD_LENGTH (H6). -/
theorem test_placed_encrow :
    faultOf (after (step (State.reset.withFetchWord 8 0x03))) = [2, 7, 0, 0, 0, 0, 0] := by decide +kernel

/-! ### The pure functions -/

/-- Vector B1, read both ways. -/
theorem test_pack_b1 :
    pack { w := 16, h := 1, l := 2 } ((List.range 16).map (BitVec.ofNat 4))
      = [0x55#8, 0x55#8, 0x33#8, 0x33#8, 0x0F#8, 0x0F#8, 0x00#8, 0xFF#8] := by decide
theorem test_unpack_b1 :
    unpack { w := 16, h := 1, l := 2 } [0x55#8, 0x55#8, 0x33#8, 0x33#8, 0x0F#8, 0x0F#8, 0x00#8, 0xFF#8]
      = (List.range 16).map (BitVec.ofNat 4) := by decide

/-- Vector B2: k = 0 is bit 15, k = 15 is bit 0. -/
theorem test_pack_b2 :
    pack { w := 16, h := 1, l := 0 } (1#4 :: List.replicate 14 0#4 ++ [1#4]) = [0x80#8, 0x01#8] := by decide

/-- Vector B4: two rows, two tiles, two planes. -/
theorem test_pack_b4 :
    pack toy ((List.range 64).map fun a => BitVec.ofNat 4 ((a % 32 + a / 32) % 4)) = bytesB4 := by decide

/-- Vectors E5, E6, E16 and the splitting of 130 and 259 (E20, E27). -/
theorem test_encode_e5 :
    rleEncode [0x41#8, 0x42#8, 0x43#8, 0#8, 0#8, 0#8, 0#8]
      = [0x02#8, 0x41#8, 0x42#8, 0x43#8, 0xFD#8, 0x00#8] := by decide
theorem test_encode_e8 :
    rleEncode [0x07#8, 0x08#8, 0x08#8, 0x09#8, 0x09#8, 0x09#8, 0x0A#8]
      = [0x00#8, 0x07#8, 0xFF#8, 0x08#8, 0xFE#8, 0x09#8, 0x00#8, 0x0A#8] := by decide
theorem test_encode_e20 :
    rleEncode (List.replicate 130 0x09#8) = [0x81#8, 0x09#8, 0xFF#8, 0x09#8] := by decide +kernel
theorem test_encode_e27 :
    rleEncode (List.replicate 259 0x09#8) = [0x80#8, 0x09#8, 0x81#8, 0x09#8, 0xFF#8, 0x09#8] := by decide +kernel

/-- Vectors D3, D9, D12, D14, D15: overflow on the control byte alone, before truncation; a stream the encoder would not
write is accepted (R126). -/
theorem test_decode_d3 :
    rleDecode [0x02#8, 0x41#8, 0x42#8, 0x43#8, 0xFD#8, 0x00#8] 6 = .error ⟨.rleOverflow, 4, 3, 4⟩ := by decide
theorem test_decode_d9 : rleDecode [0x7F#8] 80 = .error ⟨.rleOverflow, 0, 0, 128⟩ := by decide
theorem test_decode_d12 : rleDecode [0x01#8, 0x41#8] 80 = .error ⟨.rleTruncated, 0, 0, 2⟩ := by decide
theorem test_decode_d14 : rleDecode [0x00#8, 0x41#8, 0x00#8, 0x41#8] 80 = .ok [0x41#8, 0x41#8] := by decide
theorem test_decode_d15 :
    rleDecode [0xFF#8, 0x41#8, 0xFF#8, 0x41#8] 3 = .error ⟨.rleOverflow, 2, 2, 2⟩ := by decide

/-- Vectors F2, F5, F6, F9, F10, F13, F14. -/
theorem test_frame_f2 :
    encodeFrame toy bytesB4
      = [0xFD#8, 0x55#8, 0xFD#8, 0x33#8, 0xFD#8, 0xAA#8, 0xFD#8, 0x66#8] := by decide
theorem test_frame_f5 :
    decodeFrame toy [0xFD#8, 0xAA#8, 0xFD#8, 0xAA#8, 0xFD#8, 0xAA#8]
      = .error ⟨.rleTruncated, 1, 1, 6, 0, 0⟩ := by decide
theorem test_frame_f6 :
    decodeFrame toy [0xFD#8, 0xAA#8, 0xFD#8, 0xAA#8, 0xFD#8, 0xAA#8, 0xFD#8, 0xAA#8, 0x00#8]
      = .error ⟨.rleTrailing, 2, 0, 8, 0, 0⟩ := by decide
theorem test_frame_f9 :
    decodeFrame toy [0xFE#8, 0xAA#8, 0x01#8, 0x01#8, 0x02#8] = .error ⟨.rleOverflow, 0, 0, 2, 3, 2⟩ := by decide
theorem test_frame_f11 :
    decodeFrame toy [0xFD#8, 0xAA#8, 0xFD#8] = .error ⟨.rleTruncated, 0, 1, 2, 0, 4⟩ := by decide
theorem test_frame_f13 :
    decodeFrame toy [0xFE#8, 0xAA#8, 0x00#8, 0xBB#8, 0xFD#8, 0xCC#8, 0x03#8, 0x01#8, 0x02#8, 0x03#8, 0x04#8,
        0xFF#8, 0xDD#8, 0xFF#8, 0xEE#8]
      = .ok [0xAA#8, 0xAA#8, 0xCC#8, 0xCC#8, 0xAA#8, 0xBB#8, 0xCC#8, 0xCC#8, 0x01#8, 0x02#8, 0xDD#8, 0xDD#8,
          0x03#8, 0x04#8, 0xEE#8, 0xEE#8] := by decide

/-! ### One step of each instruction -/

/-- P1's trace: COPY takes (ip, op) from (0, 0) to (4, 3). -/
theorem test_step_copy :
    (after (step (insideRow 0 []))).dec
      = some { geom := none, ip := 4, row := [0x41#8, 0x42#8, 0x43#8], rows := [] } := by decide

/-- P1's trace: FILL takes (ip, op) from (4, 3) to (6, 7). -/
theorem test_step_fill :
    (after (step (insideRow 4 [0x41#8, 0x42#8, 0x43#8]))).dec
      = some { geom := none, ip := 6, row := [0x41#8, 0x42#8, 0x43#8, 0#8, 0#8, 0#8, 0#8], rows := [] } := by decide

/-- F24: FILL 80 into a 40-byte row-plane faults, with nothing written. -/
theorem test_step_fill_overflow :
    faultOf (after (step (insideFrame [0xB1#8, 0x00#8] 2#17))) = [2, 1, 0, 0, 0, 0, 80] := by decide

/-- Vector B10: PACK under PI2 with IDX[5] = 4. -/
theorem test_exec_pack_b10 :
    faultOf (after (exec .pack (idxState 1 [0#4, 0#4, 0#4, 0#4, 0#4, 4#4]))) = [2, 4, 0, 0, 5, 0, 4] := by decide +kernel

/-- UNPACK straight after reset ends DONE, whatever PLN holds. -/
theorem test_exec_unpack : (after (exec .unpack State.reset)).status = .done := rfl

/-- Vector B3 at its one set pixel, under the tile layout of PI1: tile 1, k = 1, index 1010 binary. -/
theorem test_unpack_b3 :
    unpackCell geometryPI1 [0#8, 0#8, 0#8, 0#8, 0#8, 0#8, 0#8, 0#8, 0#8, 0#8, 0x40#8, 0#8, 0#8, 0#8, 0x40#8, 0#8] 0 1 1
      = 10#4 := by decide

/-- Vector E5 as a command (R149's example). -/
theorem test_exec_encrow :
    let t := after (exec .encrow (rowState [0x41#8, 0x42#8, 0x43#8, 0#8, 0#8, 0#8, 0#8] [] 7#8 0#8))
    t.status = .done ∧ t.crowLen = 6#8 ∧
      t.cpb.readRange 6 = [0x02#8, 0x41#8, 0x42#8, 0x43#8, 0xFD#8, 0x00#8] := by decide

/-- Vector F28: ENCROW ignores CFG_FMT. -/
theorem test_exec_encrow_cfg3 :
    let t := after (exec .encrow { rowState [0x41#8] [] 1#8 0#8 with cfgFmt := 3 })
    t.status = .done ∧ t.cpb.readRange 2 = [0x00#8, 0x41#8] := by decide

/-- Vector D1. -/
theorem test_exec_decrow_d1 :
    let t := after (exec .decrow (rowState [] [0x02#8, 0x41#8, 0x42#8, 0x43#8, 0xFD#8, 0x00#8] 40#8 6#8))
    t.status = .done ∧ t.rowCnt = 7#8 ∧
      t.rpb.readRange 7 = [0x41#8, 0x42#8, 0x43#8, 0#8, 0#8, 0#8, 0#8] := by decide

/-- Vector D20: ROW_LEN is tested before CROW_LEN. -/
theorem test_exec_decrow_d20 :
    faultOf (after (exec .decrow (rowState [] [] 0#8 129#8))) = [2, 7, 0, 0, 0, 0, 0] := by decide

/-- Vector F27. -/
theorem test_exec_encframe_cfg3 :
    faultOf (after (exec .encframe (frameState 3 [] 0#17))) = [2, 5, 0, 0, 0, 0, 3] := by decide

/-- ENCFRAME straight after reset ends DONE, whatever PLN holds. -/
theorem test_exec_encframe : (after (exec .encframe State.reset)).status = .done := rfl

/-- Vector F26: one past the legal stream length. -/
theorem test_exec_decframe_f26 :
    faultOf (after (exec .decframe (frameState 0 [] 64001#17))) = [2, 7, 0, 0, 0, 0, 64001] := by decide

/-- Vector H7: DECFRAME straight after reset. -/
theorem test_exec_decframe_h7 :
    faultOf (after (exec .decframe State.reset)) = [2, 2, 0, 0, 0, 0, 0] := by decide

/-! ### Host actions -/

/-- Vector H5. -/
theorem test_host_h5 : faultOf (after (step (idle [.writeReg 1 9]))) = [2, 6, 0, 0, 0, 0, 9] := by decide

/-- Vector H4: the value written to CMD is taken mod 256, and PACK under PI1 never faults. -/
theorem test_host_h4 : step (idle [.writeReg 1 0x101]) = exec .pack (idle []) := rfl

/-- Vector H8: writes are ignored in FAILED. -/
theorem test_host_h8 : (after (step (failed [.writeReg 0 2]))).cfgFmt = 0 := by decide

/-- Vector H10: reset leaves FAILED. -/
theorem test_host_h10 : faultOf (after (step (failed [.reset]))) = [0, 0, 0, 0, 0, 0, 0] := by decide

/-- Vector H11. -/
theorem test_host_h11 : (after (step (idle [.writeReg 0 7]))).cfgFmt = 3 := by decide

/-- Vector H13. -/
theorem test_host_h13 : (after (step (idle [.writeReg 7 200000]))).strLen = 68928#17 := by decide

/-- Vector H14. -/
theorem test_host_h14 : (after (step (idle [.writeMem .idx 0 0x1F]))).idx.read 0 = 15#4 := by decide

/-- A read of a register is returned in the reply: CMD reads 0 (R181). -/
theorem test_host_read : (after (step (failed [.readReg 1]))).reply = some 0
    ∧ (after (step (failed [.readReg 3]))).reply = some 6 := by decide

/-! ### The hypotheses of the obligations are met -/

theorem witness_DecodeOfEncodeIsTheInstruction :
    (Instr.copy [0x41#8]).wf = true ∧ (Instr.copy [0x41#8]).isStream = true ∧ (Instr.fill 2 0x41#8).wf = true ∧
      (Instr.fill 129 0x41#8).wf = true ∧ Instr.decframe.wf = true ∧ Instr.decframe.isStream = false := by decide

theorem witness_EncodeOfDecodeIsTheBytes :
    decodeStream [0xFF#8, 0x41#8, 0x00#8] = .ok (.fill 2 0x41#8, [0x00#8]) ∧
      decodeCommand 0x06#8 = .ok .decframe := by decide

theorem witness_ControlByteGivesTheCount :
    (0x7F#8).toNat < 128 ∧ 128 ≤ (0x80#8).toNat ∧ 1 ≤ [0x41#8].length ∧ [0x41#8].length ≤ 128 := by decide

theorem witness_EveryControlByteIsALegalOpcode : 128 ≤ (List.replicate 128 0x00#8).length ∧ 0 + 129 ≤ 129 := by
  simp

/-- Between commands. -/
theorem witness_StepRunsTheDecodedInstruction :
    (idle [.writeReg 1 0x106]).dec = none ∧ (idle [.writeReg 1 0x106]).host = .writeReg 1 0x106 :: [] ∧
      decodeCommand ((0x106#32).setWidth 8) = .ok .decframe := by decide

/-- Inside DECROW. -/
theorem witness_StepRunsTheDecodedInstruction_row :
    (insideRow 4 []).dec = some { geom := none, ip := 4, row := [], rows := [] } ∧
      decodeStream ((insideRow 4 []).codedRow.drop 4)
        = .ok (.fill 4 0x00#8, [0x00#8, 0xFF#8, 0xFF#8, 0x80#8]) := by decide

/-- Inside DECFRAME. -/
theorem witness_StepRunsTheDecodedInstruction_frame :
    (insideFrame [0xD9#8, 0x00#8] 2#17).dec
        = some { geom := some geometryPI1, ip := 0, row := [], rows := [] } ∧
      ([] : List (List Byte)).length < geometryPI1.rowPlanes ∧ ([] : List Byte).length < geometryPI1.rowBytes ∧
      decodeStream ((insideFrame [0xD9#8, 0x00#8] 2#17).streamBytes.drop 0) = .ok (.fill 40 0x00#8, []) := by decide

theorem witness_PlacedWordIsRunByTheNextStep :
    decodeTableWord 8 0x06 = some .decframe ∧ Instr.decframe.isStream = false ∧
      decodeTableWord 8 0xFF = some (.fill 2 0x00#8) ∧ (Instr.fill 2 0x00#8).isStream = true := by decide +kernel

theorem witness_ResetActionClearsRegistersAndKeepsMemories :
    (failed [.reset]).dec = none ∧ (failed [.reset]).host = .reset :: [] := by decide

theorem witness_InitialStateIsZeroRegistersAndUnwrittenMemories : 12 ≤ 12 := by decide

theorem witness_RegisterActionsReadAndWriteTheRegister :
    (idle [.readReg 12]).dec = none ∧ (idle [.readReg 12]).host = .readReg 12 :: [] ∧
      (idle [.writeReg 0 7]).dec = none ∧ (idle [.writeReg 0 7]).host = .writeReg 0 7 :: [] ∧ 0 ≠ 1 ∧
      (idle [.writeReg 0 7]).status ≠ .failed ∧
      (idle [.writeReg 12 7]).host = .writeReg 12 7 :: [] ∧ (idle [.writeReg 12 7]).status ≠ .failed := by decide

theorem witness_MemoryActionsReadAndWriteOneCell :
    (idle [.readMem .idx 255999]).dec = none ∧ 255999 < Space.idx.capacity ∧
      (idle [.readMem .idx 255999]).host = .readMem .idx 255999 :: [] ∧ 127 < Space.cpb.capacity ∧
      (idle [.writeMem .cpb 127 300]).host = .writeMem .cpb 127 300 :: [] ∧
      (idle [.writeMem .cpb 127 300]).status ≠ .failed ∧
      (Space.idx, 255998) ≠ (Space.idx, 255999) := by decide

theorem witness_ActionsThatNameNothingAreRefused :
    12 < 13 ∧ (idle [.readReg 13]).host = .readReg 13 :: [] ∧ (failed [.writeReg 13 0]).host = .writeReg 13 0 :: [] ∧
      Space.rpb.capacity ≤ 80 ∧ (idle [.readMem .rpb 80]).host = .readMem .rpb 80 :: [] ∧
      (failed [.writeMem .rpb 80 0]).host = .writeMem .rpb 80 0 :: [] ∧
      (failed [.writeMem .rpb 80 0]).dec = none := by decide

theorem witness_FailedIgnoresEveryWrite :
    (failed []).dec = none ∧ (failed []).status = .failed ∧
      (failed [.writeReg 1 2]).host = .writeReg 1 2 :: [] ∧
      (failed [.writeMem .pln 31999 2]).host = .writeMem .pln 31999 2 :: [] ∧ 31999 < Space.pln.capacity ∧
      (failed [.readReg 2]).host = .readReg 2 :: [] ∧ (failed [.readMem .str 63999]).host = .readMem .str 63999 :: [] ∧
      63999 < Space.str.capacity ∧ (failed [.reset]).host = .reset :: [] := by decide

theorem witness_OnlyResetLeavesFailed :
    (failed [.writeReg 1 2]).dec = none ∧ (failed [.writeReg 1 2]).status = .failed ∧
      step (failed [.writeReg 1 2]) = .next (failed []) := ⟨rfl, rfl, rfl⟩

theorem witness_ReservedCommandCodesFault :
    (idle [.writeReg 1 0]).dec = none ∧ (idle [.writeReg 1 0]).host = .writeReg 1 0 :: [] ∧
      (idle [.writeReg 1 0]).status ≠ .failed ∧ (0x100#32).toNat % 256 = 0 ∧ 7 ≤ (0x07#32).toNat % 256 ∧
      7 ≤ (0xFF#32).toNat % 256 := by decide

theorem witness_RaiseWritesExactlyTheFaultRegisters :
    400 < 2 ^ 9 ∧ 3 < 2 ^ 2 ∧ 64000 < 2 ^ 17 ∧ 80 < 2 ^ 8 ∧ 129 < 2 ^ 17 := by decide

theorem witness_ReservedGeometryFaults :
    (frameState 3 [] 0).status ≠ .failed ∧ (frameState 3 [] 0).cfgFmt = 3 ∧
      (Instr.unpack = .pack ∨ Instr.unpack = .unpack ∨ Instr.unpack = .encframe ∨ Instr.unpack = .decframe) := by
  decide

theorem witness_EveryCommandEndsDoneOrFailed :
    Instr.pack.isStream = false ∧ State.reset.status ≠ .failed := by decide

/-- A COPY that overflows, is cut off, or completes, and a FILL that is cut off or completes. -/
theorem witness_DecodeOpFollowsTheControlByte :
    (0 < [0x01#8, 0x41#8].length ∧ 0 + opcodeCount 0x01#8 > 1) ∧
      (0 + opcodeCount 0x01#8 ≤ 2 ∧ (0x01#8).toNat < 128 ∧ [0x01#8, 0x41#8].length < 0 + 1 + opcodeCount 0x01#8) ∧
      (0 + opcodeCount 0x00#8 ≤ 1 ∧ 0 + 1 + opcodeCount 0x00#8 ≤ [0x00#8, 0x41#8].length) ∧
      (0 + opcodeCount 0xFF#8 ≤ 2 ∧ 128 ≤ (0xFF#8).toNat ∧ [0xFF#8].length < 0 + 2) ∧
      (0 + 1 < [0xFF#8, 0x41#8].length) := by decide

theorem witness_StreamOpcodesAppendTheirBytes :
    (insideRow 0 []).dec = some { geom := none, ip := 0, row := [], rows := [] } ∧
      ([] : List Byte).length + [0x41#8].length ≤ (Decoder.mk none 0 [] []).budget (insideRow 0 []) ∧
      ([] : List Byte).length + 40 ≤ (Decoder.mk none 0 [] []).budget (insideRow 0 []) ∧
      State.reset.dec = none := by decide

theorem witness_OpcodeOverBudgetFaults :
    (insideRow 0 []).dec = some { geom := none, ip := 0, row := [], rows := [] } ∧
      (Decoder.mk none 0 [] []).budget (insideRow 0 []) < ([] : List Byte).length + 41 ∧
      (insideFrame [] 0).dec = some { geom := some geometryPI1, ip := 0, row := [], rows := [] } ∧
      (Decoder.mk (some geometryPI1) 0 [] []).budget (insideFrame [] 0) < ([] : List Byte).length + 41 := by decide

theorem witness_RunLenIsTheMaximalRun : runLen [0x41#8, 0x41#8, 0x42#8] < [0x41#8, 0x41#8, 0x42#8].length := by decide

theorem witness_FlushLitCutsGreedilyAt128 : [0x41#8] ≠ [] := by decide

theorem witness_EmitFillSplits130As128And2 : 0 < 1 ∧ 2 ≤ 2 ∧ 2 ≤ 130 := by decide

theorem witness_EncoderScanFollowsItsRule :
    [0x41#8].length < 2 ∧ 2 ≤ runLen [0x41#8, 0x41#8] ∧ runLen [0x41#8, 0x42#8] < 2 := by decide

theorem witness_RowDecoderLoopFollowsItsRule : [0xFF#8, 0x41#8].length ≤ 0 + 2 := by decide

theorem witness_TwoEqualBytesBecomeAFill : 0x01#8 ≠ 0x02#8 ∧ 0x02#8 ≠ 0x03#8 := by decide

theorem witness_EmptyInputEncodesAndDecodesToNothing :
    (rowState [] [] 1#8 0#8).status ≠ .failed ∧ 1 ≤ (rowState [] [] 1#8 0#8).rowLen.toNat ∧
      (rowState [] [] 80#8 0#8).rowLen.toNat ≤ 80 ∧ (rowState [] [] 80#8 0#8).crowLen = 0 := by decide

theorem witness_RowDecodeOfRowEncodeIsTheRow : [0x41#8].length ≤ 1 ∧ 0 < [0x41#8].length := by decide

theorem witness_EncodedLengthIsBounded :
    1 ≤ [0x41#8].length ∧ [0x41#8].length ≤ 128 ∧ 1 ≤ 128 ∧ 128 ≤ 128 := by decide

theorem witness_EncoderOutputHasLegalShape :
    Instr.copy [0x41#8, 0x42#8] ∈ rleProgram [0x41#8, 0x42#8, 0x00#8, 0x00#8] ∧ 0 + 1 < [0x41#8, 0x42#8].length ∧
      0 + 1 < (rleProgram [0x41#8, 0x42#8, 0x00#8, 0x00#8]).length := by decide

/-- ROW_LEN below, above, and at both ends of its range. -/
theorem witness_EncrowFollowsItsRule :
    State.reset.status ≠ .failed ∧ State.reset.rowLen.toNat < 1 ∧ 80 < (rowState [] [] 81#8 0#8).rowLen.toNat ∧
      1 ≤ (rowState [] [] 1#8 0#8).rowLen.toNat ∧ (rowState [] [] 80#8 0#8).rowLen.toNat ≤ 80 := by decide

/-- Each length check, the longest legal lengths with a decoding fault, and a decoded row-plane. -/
theorem witness_DecrowFollowsItsRule :
    State.reset.status ≠ .failed ∧ State.reset.rowLen.toNat < 1 ∧ 80 < (rowState [] [] 81#8 0#8).rowLen.toNat ∧
      128 < (rowState [] [] 1#8 129#8).crowLen.toNat ∧ (rowState [] [] 80#8 128#8).crowLen.toNat ≤ 128 ∧
      rleDecode ((rowState [] [0x7F#8] 80#8 1#8).cpb.readRange 1) 80 = .error ⟨.rleOverflow, 0, 0, 128⟩ ∧
      rleDecode ((rowState [] [0xFF#8, 0x41#8] 80#8 2#8).cpb.readRange 2) 80 = .ok [0x41#8, 0x41#8] := by decide

theorem witness_DecrowUndoesEncrow :
    (rowState [0x41#8] [] 1#8 0#8).status ≠ .failed ∧ 1 ≤ (rowState [0x41#8] [] 1#8 0#8).rowLen.toNat ∧
      (rowState [0x41#8] [] 1#8 0#8).rowLen.toNat ≤ 80 := by decide

theorem witness_DecrowIsItsOpcodesOneByOne :
    (rowState [] [] 80#8 128#8).dec = none ∧ (rowState [] [] 80#8 128#8).status ≠ .failed ∧
      1 ≤ (rowState [] [] 80#8 128#8).rowLen.toNat ∧ (rowState [] [] 80#8 128#8).rowLen.toNat ≤ 80 ∧
      (rowState [] [] 80#8 128#8).crowLen.toNat ≤ 128 := by decide

theorem witness_WordOffsetsAreEvenAndInside :
    geometryPI2.wf = true ∧ 199 < geometryPI2.h ∧ 39 < geometryPI2.tiles ∧ 1 < geometryPI2.planes := by decide

theorem witness_PackPutsEveryBitInItsPlace :
    toy.wf = true ∧ (List.replicate 64 (3#4)).length = toy.cellCount ∧ 31 < toy.w ∧ 1 < toy.h ∧ 1 < toy.planes ∧
      7 % 16 ≤ 7 ∧ 8 ≤ 24 % 16 := by decide

theorem witness_UnpackTakesEveryBitFromItsPlace :
    toy.wf = true ∧ bytesB4.length = toy.rawBytes ∧ 31 < toy.w ∧ 1 < toy.h ∧ 1 < toy.planes := by decide

theorem witness_PackAndUnpackAreInverse :
    toy.wf = true ∧ (List.replicate 64 (3#4)).length = toy.cellCount ∧
      (∀ v ∈ List.replicate 64 (3#4), v.toNat < 2 ^ toy.planes) ∧ bytesB4.length = toy.rawBytes := by decide

/-- A first bad cell that is not the first cell. -/
theorem witness_PackCommandFollowsItsRule_bad :
    (idxState 1 [3#4, 4#4]).status ≠ .failed ∧ geometryOf (idxState 1 [3#4, 4#4]).cfgFmt = some geometryPI2 ∧
      1 < geometryPI2.w ∧ 0 < geometryPI2.h ∧
      2 ^ geometryPI2.planes ≤ ((idxState 1 [3#4, 4#4]).idx.read (0 * geometryPI2.w + 1)).toNat ∧
      ∀ a, a < 0 * geometryPI2.w + 1 → ((idxState 1 [3#4, 4#4]).idx.read a).toNat < 2 ^ geometryPI2.planes := by
  decide

/-- Under PI1 no cell is bad, whatever it holds (vector B12, R103). -/
theorem witness_PackCommandFollowsItsRule_good :
    State.reset.status ≠ .failed ∧ geometryOf State.reset.cfgFmt = some geometryPI1 ∧
      ∀ a, a < geometryPI1.w * geometryPI1.h → (State.reset.idx.read a).toNat < 2 ^ geometryPI1.planes :=
  ⟨by decide, by decide, fun a _ => (State.reset.idx.read a).isLt⟩

theorem witness_UnpackCommandFollowsItsRule :
    (frameState 2 [] 0).status ≠ .failed ∧ geometryOf (frameState 2 [] 0).cfgFmt = some geometryPI3 := by decide

theorem witness_PackUndoesUnpack :
    (frameState 1 [] 0).status ≠ .failed ∧ geometryOf (frameState 1 [] 0).cfgFmt = some geometryPI2 := by decide

theorem witness_ScatterWritesOneCellOfThePartition :
    toy.wf = true ∧ 15 < toy.rawBytes ∧ 1 < toy.h ∧ 1 < toy.planes ∧ 3 < toy.rowBytes ∧
      bytesB4.length = toy.rawBytes ∧ [1#8, 2#8, 3#8, 4#8].length = toy.rowBytes ∧ toy.rpaddr 1 1 3 = 15 ∧
      (∀ j, j < toy.rowBytes → toy.rpaddr 0 0 j ≠ 15) := by decide

theorem witness_RowPlaneIsTheScanlineOfOneBit :
    3 < toy.rowBytes ∧ toy.wf = true ∧ (List.replicate 64 (3#4)).length = toy.cellCount ∧ 31 < toy.w ∧ 1 < toy.h ∧
      1 < toy.planes := by decide

theorem witness_FrameLoopsFollowTheirRules :
    toy.rowBytes ≤ [0xAA#8].length + 3 ∧ toy.wf = true ∧
      (List.replicate 4 [1#8, 2#8, 3#8, 4#8]).length = toy.rowPlanes ∧
      (∀ r ∈ List.replicate 4 [1#8, 2#8, 3#8, 4#8], r.length = toy.rowBytes) := by decide

/-- The reserved geometry, for the four commands that have a clause for it. -/
theorem witness_reserved_geometry_clause :
    (frameState 3 [] 0).status ≠ .failed ∧ (frameState 3 [] 0).cfgFmt = 3 := by decide

theorem witness_AnOpcodeNeverSpansRowPlanes :
    [0xAA#8, 0xAA#8, 0xAA#8].length ≤ toy.rowBytes ∧
      decodeRowPlane toy [0x00#8, 0xBB#8] (toy.rowBytes - 3) 0 [0xAA#8, 0xAA#8, 0xAA#8]
        = .ok (2, [0xAA#8, 0xAA#8, 0xAA#8, 0xBB#8]) ∧
      0 < [0x01#8].length ∧ [0xAA#8, 0xAA#8, 0xAA#8].length < toy.rowBytes ∧ toy.rowBytes - 3 < opcodeCount 0x01#8 := by
  decide

theorem witness_FrameDecodeOfFrameEncodeIsTheFrame : toy.wf = true ∧ bytesB4.length = toy.rawBytes := by decide

theorem witness_StreamsTooLongOrTooShortFault :
    toy.wf = true ∧ bytesB4.length = toy.rawBytes ∧ [0x00#8] ≠ [] ∧ 3 < toy.rowPlanes := by decide

theorem witness_UniformFrameIsOneFillPerRowPlane :
    geometryPI1.wf = true ∧ geometryPI1.rowBytes ≤ 129 ∧ geometryPI3.wf = true ∧ geometryPI3.rowBytes ≤ 129 := by decide

theorem witness_EncframeFollowsItsRule :
    State.reset.status ≠ .failed ∧ geometryOf State.reset.cfgFmt = some geometryPI1 ∧ State.reset.cfgFmt = 0 ∧
      (frameState 1 [] 0).status ≠ .failed ∧ geometryOf (frameState 1 [] 0).cfgFmt = some geometryPI2 ∧
      (frameState 1 [] 0).cfgFmt ≠ 0 := by decide

/-- The length check at its first illegal value, and a fault of the decoder. -/
theorem witness_DecframeFollowsItsRule :
    (frameState 0 [] 64001).status ≠ .failed ∧ geometryOf (frameState 0 [] 64001).cfgFmt = some geometryPI1 ∧
      64000 < (frameState 0 [] 64001).strLen.toNat ∧ (frameState 0 [] 64000).strLen.toNat ≤ 64000 ∧
      decodeFrame geometryPI1 ((frameState 0 [] 0).str.readRange (frameState 0 [] 0).strLen.toNat)
        = .error ⟨.rleTruncated, 0, 0, 0, 0, 0⟩ := by decide

/-- `n` times FILL 80, 55: the stream of a uniform PI3 frame when n = 400 (vector F23). -/
def uniformStream (n : Nat) : List Byte := (List.replicate n [0xB1#8, 0x55#8]).flatten

theorem uniformStream_length (n : Nat) : (uniformStream n).length = 2 * n := by
  simp [uniformStream, Nat.mul_comm]

theorem uniformStream_succ (n : Nat) : uniformStream (n + 1) = 0xB1#8 :: 0x55#8 :: uniformStream n := by
  simp [uniformStream, List.replicate_succ]

theorem uniformStream_drop (k n : Nat) : (uniformStream (k + n)).drop (2 * k) = uniformStream n := by
  induction k with
  | zero => simp
  | succ k ih =>
    have h1 : k + 1 + n = k + n + 1 := by omega
    have h2 : 2 * (k + 1) = 2 * k + 1 + 1 := by omega
    rw [h1, h2, uniformStream_succ, List.drop_succ_cons, List.drop_succ_cons, ih]

theorem uniformStream_rowPlane (k n : Nat) :
    decodeRowPlane geometryPI3 (uniformStream (k + (n + 1))) 80 (2 * k) []
      = .ok (2 * k + 2, List.replicate 80 0x55#8) := by
  have hd : decodeOp (uniformStream (k + (n + 1))) (2 * k) 0 80 = .ok (2 * k + 2, List.replicate 80 0x55#8) := by
    rw [decodeOp, uniformStream_drop, uniformStream_succ]
    rfl
  have hl : ¬ (uniformStream (k + (n + 1))).length ≤ 2 * k := by rw [uniformStream_length]; omega
  have hb : geometryPI3.rowBytes = 80 := rfl
  simp [decodeRowPlane, hb, hl, hd]

theorem uniformStream_rowPlanes (n k q : Nat) :
    ∃ rows, decodeRowPlanes geometryPI3 (uniformStream (k + n)) n q (2 * k) = .ok (2 * (k + n), rows) := by
  induction n generalizing k q with
  | zero => exact ⟨[], rfl⟩
  | succ n ih =>
    obtain ⟨rows, hr⟩ := ih (k + 1) (q + 1)
    have h1 : k + 1 + n = k + (n + 1) := by omega
    have h2 : 2 * (k + 1) = 2 * k + 2 := by omega
    rw [h1, h2] at hr
    have hb : geometryPI3.rowBytes = 80 := rfl
    refine ⟨List.replicate 80 0x55#8 :: rows, ?_⟩
    simp only [decodeRowPlanes, hb, uniformStream_rowPlane, hr]

/-- A stream that decodes to a frame (vector F23). -/
theorem witness_DecframeFollowsItsRule_ok :
    ∃ d, decodeFrame geometryPI3
      ((frameState 2 (uniformStream 400) 800).str.readRange (frameState 2 (uniformStream 400) 800).strLen.toNat)
        = .ok d := by
  have hlen : (frameState 2 (uniformStream 400) 800).strLen.toNat = (uniformStream 400).length := by
    rw [uniformStream_length]; rfl
  have hs : (frameState 2 (uniformStream 400) 800).str = mem (uniformStream 400) := rfl
  obtain ⟨rows, hr⟩ := uniformStream_rowPlanes 400 0 0
  have hn : geometryPI3.rowPlanes = 400 := rfl
  rw [hlen, hs, mem, Memory.readRange_writeRange, decodeFrame, hn]
  simp only [Nat.zero_add, Nat.mul_zero] at hr
  rw [hr]
  refine ⟨assemblePlanes geometryPI3 rows, ?_⟩
  simp [uniformStream_length]

theorem witness_DecframeUndoesEncframe :
    (frameState 2 [] 0).status ≠ .failed ∧ geometryOf (frameState 2 [] 0).cfgFmt = some geometryPI3 := by decide

theorem witness_DecframeIsItsOpcodesOneByOne :
    (frameState 0 [] 64000).dec = none ∧ (frameState 0 [] 64000).status ≠ .failed ∧
      geometryOf (frameState 0 [] 64000).cfgFmt = some geometryPI1 ∧
      (frameState 0 [] 64000).strLen.toNat ≤ 64000 := by decide

theorem witness_CommandsWriteOnlyWhatTheyMay :
    Instr.encrow.isStream = false ∧
      exec .encrow State.reset = .next (State.reset.raisePlain .badLength 0) := ⟨rfl, rfl⟩

/-- Two states that agree on what UNPACK reads and differ elsewhere. -/
theorem witness_CommandOutcomeDependsOnlyOnItsSources :
    Instr.unpack.isStream = false ∧ State.reset.status ≠ .failed ∧ (idxState 0 [1#4]).status ≠ .failed ∧
      State.reset.cfgFmt = (idxState 0 [1#4]).cfgFmt ∧ State.reset.rowLen = (idxState 0 [1#4]).rowLen ∧
      State.reset.crowLen = (idxState 0 [1#4]).crowLen ∧ State.reset.strLen = (idxState 0 [1#4]).strLen ∧
      State.reset.pln.sameReads (idxState 0 [1#4]).pln ∧
      exec .unpack State.reset = .next (unpackBody geometryPI1 State.reset) ∧
      exec .unpack (idxState 0 [1#4]) = .next (unpackBody geometryPI1 (idxState 0 [1#4])) ∧
      (unpackBody geometryPI1 State.reset).status = .done :=
  ⟨rfl, by decide, by decide, rfl, rfl, rfl, rfl, fun _ => rfl, rfl, rfl, rfl⟩

theorem witness_FileBytesAreThePixelData : (List.replicate 34 0x00#8).length = 34 ∧ 31999 < 32000 := by decide

theorem witness_EveryStepKeepsTheInvariant :
    (idle [.writeReg 1 3]).inv = true ∧
      step (idle [.writeReg 1 3]) = .next ((idle []).raisePlain .badLength 0) := ⟨by decide, rfl⟩

/-- The contexts of vectors D3 (an opcode of DECROW), H7 (between opcodes of DECFRAME) and B10 are legal. -/
theorem test_context_d3 :
    (after (exec .decrow (rowState [] [0x02#8, 0x41#8, 0x42#8, 0x43#8, 0xFD#8, 0x00#8] 6#8 6#8))).contextLegal = true := by
  decide
theorem test_context_h7 : (after (exec .decframe State.reset)).contextLegal = true := by decide
theorem test_context_b10 :
    (after (exec .pack (idxState 1 [0#4, 0#4, 0#4, 0#4, 0#4, 4#4]))).contextLegal = true := by decide +kernel

/-- An RLE_TRUNCATED with a full row-plane is no legal context. -/
theorem test_context_illegal :
    ({ frameState 0 [] 5 with status := .failed, fault := .rleTruncated, faultIpos := 5, faultOpos := 40 }).contextLegal
      = false := by decide

/-- Whether an outcome is a step whose reply is `v`. -/
def replies (o : Host.Outcome State Fault Refusal) (v : Nat) : Bool := decide ((after o).reply = some v)

/-- The codes of R200, read through the host's action. -/
theorem test_fault_codes :
    ([Cause.none, .rleOverflow, .rleTruncated, .rleTrailing, .indexRange, .badConfig, .badCommand, .badLength].zipIdx.all
      fun c => replies (step { idle [.readReg 3] with fault := c.1 }) c.2) = true := by decide

theorem witness_EveryStepKeepsTheFaultContextLegal :
    (failed [.reset]).inv = true ∧ (failed [.reset]).contextLegal = true ∧
      step (failed [.reset]) = .next (idle []) := ⟨by decide, by decide, rfl⟩

end Sys2Proof.Tests
end

section
/-! The geometries that CFG_FMT selects and their derived parameters (00_scope.md R5 to R8, 10_state.md R21). -/

namespace Sys2Proof

theorem geometryOf_zero : geometryOf 0 = some geometryPI1 := rfl

theorem geometryOf_one : geometryOf 1 = some geometryPI2 := rfl

theorem geometryOf_two : geometryOf 2 = some geometryPI3 := rfl

theorem geometryOf_three : geometryOf 3 = none := rfl

/-- P, T, B, N, RAW and CELLS of PI1 and PC1, and R8 for its width. -/
theorem geometryPI1_parameters :
    geometryPI1.planes = 4 ∧ geometryPI1.tiles = 20 ∧ geometryPI1.rowBytes = 40 ∧ geometryPI1.rowPlanes = 800 ∧
      geometryPI1.rawBytes = 32000 ∧ geometryPI1.cellCount = 64000 ∧ geometryPI1.w % 16 = 0 := by
  decide

/-- P, T, B, N, RAW and CELLS of PI2 and PC2, and R8 for its width. -/
theorem geometryPI2_parameters :
    geometryPI2.planes = 2 ∧ geometryPI2.tiles = 40 ∧ geometryPI2.rowBytes = 80 ∧ geometryPI2.rowPlanes = 400 ∧
      geometryPI2.rawBytes = 32000 ∧ geometryPI2.cellCount = 128000 ∧ geometryPI2.w % 16 = 0 := by
  decide

/-- P, T, B, N, RAW and CELLS of PI3 and PC3, and R8 for its width. -/
theorem geometryPI3_parameters :
    geometryPI3.planes = 1 ∧ geometryPI3.tiles = 40 ∧ geometryPI3.rowBytes = 80 ∧ geometryPI3.rowPlanes = 400 ∧
      geometryPI3.rawBytes = 32000 ∧ geometryPI3.cellCount = 256000 ∧ geometryPI3.w % 16 = 0 := by
  decide

/-- Settles O36: CFG_FMT selects the three geometries, whose parameters are computed one geometry at a time. -/
theorem geometriesAreTheThreeOfTheFormats : Obligations.GeometriesAreTheThreeOfTheFormats := by
  refine ⟨geometryOf_zero, geometryOf_one, geometryOf_two, geometryOf_three, ?_⟩
  simp only [List.map_cons, List.map_nil, geometryOf_zero, geometryOf_one, geometryOf_two, Option.map_some,
    geometryPI1_parameters, geometryPI2_parameters, geometryPI3_parameters]

end Sys2Proof
end

section
/-! How many bytes the encoder's opcodes take (R144, R145, R148, R163), and how many bytes the decoders produce (R124, R167). -/

namespace Sys2Proof.Machine

/-! ### The opcodes of a row -/

@[simp] theorem assemble_nil : assemble [] = [] := rfl

@[simp] theorem assemble_cons (i : Instr) (p : List Instr) : assemble (i :: p) = encode i ++ assemble p := rfl

@[simp] theorem assemble_append (p q : List Instr) : assemble (p ++ q) = assemble p ++ assemble q := by
  simp [assemble]

@[simp] theorem length_encode_copy (lits : List Byte) : (encode (.copy lits)).length = lits.length + 1 := rfl

@[simp] theorem length_encode_fill (n : Nat) (v : Byte) : (encode (.fill n v)).length = 2 := rfl

theorem leadingCount_le_length (v : Byte) (l : List Byte) : leadingCount v l ≤ l.length := by
  induction l with
  | nil => simp [leadingCount]
  | cons b t ih =>
    simp only [leadingCount, List.length_cons]
    split <;> omega

theorem runLen_le_length (l : List Byte) : runLen l ≤ l.length := by
  cases l with
  | nil => simp [runLen]
  | cons b t => simpa [runLen] using leadingCount_le_length b t

theorem length_assemble_flushChunks_le (fuel : Nat) (l : List Byte) :
    (assemble (flushChunks fuel l)).length ≤ l.length + (l.length + 127) / 128 := by
  induction fuel generalizing l with
  | zero => simp [flushChunks]
  | succ fuel ih =>
    cases l with
    | nil => simp [flushChunks]
    | cons b t =>
      have hrest := ih ((b :: t).drop (min 128 (b :: t).length))
      simp only [flushChunks, assemble_cons, List.length_append, length_encode_copy, List.length_take,
        List.length_drop, List.length_cons] at hrest ⊢
      omega

/-- One control byte for every 128 literals begun (R144). -/
theorem length_assemble_flushLit_le (l : List Byte) :
    (assemble (flushLit l)).length ≤ l.length + (l.length + 127) / 128 :=
  length_assemble_flushChunks_le ..

/-- A FILL of a run of 2 or more covers at least two bytes of it and never leaves a single byte over (R145). -/
theorem fillChunk_bounds {r : Nat} (hr : 2 ≤ r) : 2 ≤ fillChunk r ∧ fillChunk r ≤ r ∧ r - fillChunk r ≠ 1 := by
  unfold fillChunk
  split
  · omega
  · split <;> omega

theorem length_assemble_fillChunks_le (v : Byte) (fuel : Nat) {r : Nat} (hr : r ≠ 1) :
    (assemble (fillChunks v fuel r)).length ≤ r := by
  induction fuel generalizing r with
  | zero => simp [fillChunks]
  | succ fuel ih =>
    by_cases h0 : r = 0
    · simp [fillChunks, h0]
    · obtain ⟨h2, hle, h1⟩ := fillChunk_bounds (r := r) (by omega)
      have hrest := ih h1
      simp only [fillChunks, h0, if_false, assemble_cons, List.length_append, length_encode_fill]
      omega

/-- The FILLs of a run of 2 or more are no longer than the run (R145). -/
theorem length_assemble_emitFill_le (v : Byte) {r : Nat} (hr : 2 ≤ r) : (assemble (emitFill v r)).length ≤ r :=
  length_assemble_fillChunks_le v r (by omega)

/-- What the scan emits, with pending literals `pend` before `l`. A literal run costs one control byte, and one more for
every further 128 literals; the FILLs of the run that ends it take no more bytes than that run holds, and a single byte and
a run of two, three bytes in all, are the cheapest way to force such a control byte: hence the factor 4 / 3 (R148). -/
theorem length_assemble_encodeScan_le (fuel : Nat) (pend l : List Byte) :
    3 * (assemble (encodeScan fuel pend l)).length
      ≤ 4 * (pend.length + l.length) + 2 + 3 * ((pend.length + l.length - 1) / 128) := by
  induction fuel generalizing pend l with
  | zero =>
    have hflush := length_assemble_flushLit_le pend
    simp only [encodeScan]
    omega
  | succ fuel ih =>
    have hflush := length_assemble_flushLit_le pend
    cases l with
    | nil =>
      simp only [encodeScan]
      omega
    | cons b t =>
      simp only [encodeScan]
      split
      · rename_i hrun
        have hlen := runLen_le_length (b :: t)
        have hfill := length_assemble_emitFill_le b hrun
        have hrest := ih [] ((b :: t).drop (runLen (b :: t)))
        simp only [List.length_nil, List.length_drop, Nat.zero_add] at hrest
        simp only [assemble_append, List.length_append]
        rcases Nat.eq_zero_or_pos pend.length with hpend | hpend
        · omega
        · have hquot : (pend.length + 127) / 128 + ((b :: t).length - runLen (b :: t) - 1) / 128
              ≤ 1 + (pend.length + (b :: t).length - 1) / 128 := by omega
          omega
      · have hrest := ih (pend ++ [b]) t
        simp only [List.length_append, List.length_cons, List.length_nil] at hrest ⊢
        omega

theorem length_rleEncode_bound (s : List Byte) :
    3 * (rleEncode s).length ≤ 4 * s.length + 2 + 3 * ((s.length - 1) / 128) := by
  simpa [rleEncode, rleProgram] using length_assemble_encodeScan_le s.length [] s

/-- The output is at most twice the input (R148). -/
theorem length_rleEncode_le_double (s : List Byte) : (rleEncode s).length ≤ 2 * s.length := by
  have := length_rleEncode_bound s
  omega

/-- The upper bound of R148's table, for rows of up to 128 bytes. -/
theorem length_rleEncode_le_of_short {s : List Byte} (hs : s.length ≤ 128) :
    (rleEncode s).length ≤ (4 * s.length + 2) / 3 := by
  have := length_rleEncode_bound s
  omega

/-! ### A frame, and the decoders' results -/

theorem length_flatMap_le {α β : Type} (f : α → List β) (n : Nat) (l : List α) (h : ∀ a ∈ l, (f a).length ≤ n) :
    (l.flatMap f).length ≤ l.length * n := by
  rw [List.length_flatMap]
  simpa using List.sum_le_card_nsmul (l.map fun a => (f a).length) n (by simpa using h)

/-- An encoded frame is at most twice its row-planes (R148, R163). -/
theorem length_encodeFrame_le (g : Geometry) (d : List Byte) :
    (encodeFrame g d).length ≤ g.h * (g.planes * (2 * g.rowBytes)) := by
  have hrow (y z : Nat) : (rleEncode (gather g d y z)).length ≤ 2 * g.rowBytes := by
    simpa using length_rleEncode_le_double (gather g d y z)
  have hline (y : Nat) :
      ((List.range g.planes).flatMap fun z => rleEncode (gather g d y z)).length ≤ g.planes * (2 * g.rowBytes) := by
    simpa using length_flatMap_le _ (2 * g.rowBytes) (List.range g.planes) fun z _ => hrow y z
  simpa [encodeFrame] using length_flatMap_le _ _ (List.range g.h) fun y _ => hline y

/-- The encoding of a frame of each geometry fits STR (R165). -/
theorem length_encodeFrame_le_strCap {cfg : BitVec 2} {g : Geometry} (hg : geometryOf cfg = some g) (d : List Byte) :
    (encodeFrame g d).length ≤ Config.strCap :=
  (length_encodeFrame_le g d).trans <|
    geometryOf_forall (p := fun g => g.h * (g.planes * (2 * g.rowBytes)) ≤ Config.strCap)
      (by decide) (by decide) (by decide) hg

theorem length_rleDecode_le {inp r : List Byte} {budget : Nat} (h : rleDecode inp budget = .ok r) :
    r.length ≤ budget :=
  (rleDecodeFrom_ok (Nat.zero_le budget) h).1

theorem length_decodeFrame {g : Geometry} {inp d : List Byte} (h : decodeFrame g inp = .ok d) :
    d.length = g.rawBytes := by
  simp only [decodeFrame] at h
  split at h
  · cases h
  · split at h
    · cases h
    · cases h
      exact length_assemblePlanes ..

/-! ### Every fault has a cause -/

theorem StreamFault.atOpcode_cause_ne_none {e : StreamFault} {len budget : Nat} (h : e.atOpcode len budget) :
    e.cause ≠ .none := by
  obtain ⟨⟨hc, -⟩ | ⟨hc, -⟩, -⟩ := h <;> simp [hc]

theorem rleDecode_error_cause_ne_none {inp : List Byte} {budget : Nat} {e : StreamFault}
    (h : rleDecode inp budget = .error e) : e.cause ≠ .none :=
  StreamFault.atOpcode_cause_ne_none (rleDecodeFrom_error (Nat.zero_le budget) h)

theorem decodeFrame_error_cause_ne_none {g : Geometry} {inp : List Byte} {f : FaultRecord}
    (h : decodeFrame g inp = .error f) : f.cause ≠ .none := by
  obtain ⟨q, e, -, rfl, -, he | ⟨hc, -⟩⟩ | ⟨ip, -, rfl⟩ := decodeFrame_error h
  · exact StreamFault.atOpcode_cause_ne_none he
  · simp [rowFault, hc]
  · simp [trailingFault]

end Sys2Proof.Machine
end

section
/-! What each update of the state keeps of the invariant (10_state.md R20, R24, R29, R50). -/

namespace Sys2Proof.Machine

variable {w : Nat}

/-! ### The invariant, taken apart -/

/-- A memory that is canonical and whose unspecified cells come from a draw already made. -/
structure Memory.Sound (cap draws : Nat) (m : Memory w) : Prop where
  wf : m.wf cap = true
  drawn : m.epoch < draws

theorem Memory.Sound.mono {cap n k : Nat} {m : Memory w} (h : m.Sound cap n) (hk : n ≤ k) : m.Sound cap k :=
  ⟨h.wf, h.drawn.trans_le hk⟩

theorem Memory.sound_unspecified (cap : Nat) {d n : Nat} (h : d < n) : (Memory.unspecified d : Memory w).Sound cap n :=
  ⟨Memory.wf_unspecified cap d, h⟩

theorem Memory.Sound.write {cap n a : Nat} {m : Memory w} (h : m.Sound cap n) (ha : a < cap) (v : BitVec w) :
    (m.write a v).Sound cap n :=
  ⟨m.wf_write v h.wf ha, h.drawn⟩

theorem Memory.Sound.writeRange {cap n : Nat} {m : Memory w} (h : m.Sound cap n) {l : List (BitVec w)}
    (hl : l.length ≤ cap) : (m.writeRange l).Sound cap n :=
  ⟨m.wf_writeRange l h.wf hl, h.drawn⟩

/-- The memories' part of the invariant. -/
structure State.MemoriesSound (s : State) : Prop where
  idx : s.idx.Sound Config.idxCap s.draws
  pln : s.pln.Sound Config.raw s.draws
  str : s.str.Sound Config.strCap s.draws
  rpb : s.rpb.Sound Config.rowCap s.draws
  cpb : s.cpb.Sound Config.crowCap s.draws

/-- The fault registers' part of the invariant: FAULT is set in FAILED and in no other STATUS (R24), and the context is 0
outside FAILED (R29). -/
structure State.FaultRegsSound (s : State) : Prop where
  fault_iff : s.fault = .none ↔ s.status ≠ .failed
  context : s.status ≠ .failed → s.contextZero = true

theorem State.inv_iff {s : State} : s.inv = true ↔ s.MemoriesSound ∧ s.FaultRegsSound ∧ s.dec = none := by
  have hctx : (s.status = .failed ∨ s.contextZero = true) ↔ (s.status ≠ .failed → s.contextZero = true) :=
    or_iff_not_imp_left
  simp only [State.inv, State.memoriesWf, State.faultMatchesStatus, State.drawsFresh, Bool.and_eq_true,
    Bool.or_eq_true, decide_eq_true_eq, beq_iff_eq, decide_eq_decide, hctx]
  constructor
  · rintro ⟨⟨⟨⟨⟨⟨⟨⟨wi, wp⟩, ws⟩, wr⟩, wc⟩, hfault⟩, hcontext⟩, ⟨⟨⟨di, dp⟩, ds⟩, dr⟩, dc⟩, hdec⟩
    exact ⟨⟨⟨wi, di⟩, ⟨wp, dp⟩, ⟨ws, ds⟩, ⟨wr, dr⟩, ⟨wc, dc⟩⟩, ⟨hfault, hcontext⟩, hdec⟩
  · rintro ⟨⟨⟨wi, di⟩, ⟨wp, dp⟩, ⟨ws, ds⟩, ⟨wr, dr⟩, ⟨wc, dc⟩⟩, ⟨hfault, hcontext⟩, hdec⟩
    exact ⟨⟨⟨⟨⟨⟨⟨⟨wi, wp⟩, ws⟩, wr⟩, wc⟩, hfault⟩, hcontext⟩, ⟨⟨⟨di, dp⟩, ds⟩, dr⟩, dc⟩, hdec⟩

/-! ### Registers -/

section

variable {s : State} (h : s.inv = true)
include h

theorem State.inv_takeAction (rest : List HostAction) : (s.takeAction rest).inv = true := h

theorem State.inv_setReply (v : Option Nat) : { s with reply := v }.inv = true := h

theorem State.inv_writeReg (r : Nat) (v : BitVec 32) : (s.writeReg r v).inv = true := by
  unfold State.writeReg
  split <;> exact h

theorem State.inv_resetRegisters : s.resetRegisters.inv = true := by
  obtain ⟨⟨hi, hp, hs, hr, hc⟩, -, hdec⟩ := State.inv_iff.mp h
  exact State.inv_iff.mpr ⟨⟨hi, hp, hs, hr, hc⟩, ⟨by simp, fun _ => rfl⟩, hdec⟩

theorem State.inv_markDone (hs : s.status ≠ .failed) : s.markDone.inv = true := by
  obtain ⟨⟨hi, hp, hst, hr, hc⟩, ⟨hfault, hctx⟩, hdec⟩ := State.inv_iff.mp h
  exact State.inv_iff.mpr ⟨⟨hi, hp, hst, hr, hc⟩, ⟨by simp [hfault, hs], fun _ => hctx hs⟩, hdec⟩

/-- Taking a fault that has a cause (R206). -/
theorem State.inv_raise {f : FaultRecord} (hf : f.cause ≠ .none) : (s.raise f).inv = true := by
  obtain ⟨⟨hi, hp, hs, hr, hc⟩, -, hdec⟩ := State.inv_iff.mp h
  exact State.inv_iff.mpr ⟨⟨hi, hp, hs, hr, hc⟩, ⟨by simp [hf], fun hn => absurd rfl hn⟩, hdec⟩

theorem State.inv_raisePlain {c : Cause} (hc : c ≠ .none) (val : Nat) : (s.raisePlain c val).inv = true :=
  State.inv_raise h hc

/-! ### Memories -/

theorem State.memoriesSound_of_inv : s.MemoriesSound := (State.inv_iff.mp h).1

/-- Replacing memories by sound ones keeps the invariant. -/
theorem State.inv_setMemories {idx : Memory 4} {pln str rpb cpb : Memory 8} {draws : Nat}
    (hi : idx.Sound Config.idxCap draws) (hp : pln.Sound Config.raw draws) (hs : str.Sound Config.strCap draws)
    (hr : rpb.Sound Config.rowCap draws) (hc : cpb.Sound Config.crowCap draws) :
    { s with idx := idx, pln := pln, str := str, rpb := rpb, cpb := cpb, draws := draws }.inv = true := by
  obtain ⟨-, ⟨hfault, hctx⟩, hdec⟩ := State.inv_iff.mp h
  exact State.inv_iff.mpr ⟨⟨hi, hp, hs, hr, hc⟩, ⟨hfault, hctx⟩, hdec⟩

theorem State.inv_writeCell {sp : Space} {a : Nat} (ha : a < sp.capacity) (v : Nat) :
    (s.writeCell sp a v).inv = true := by
  obtain ⟨hi, hp, hs, hr, hc⟩ := State.memoriesSound_of_inv h
  cases sp with
  | idx => exact State.inv_setMemories h (hi.write ha _) hp hs hr hc
  | pln => exact State.inv_setMemories h hi (hp.write ha _) hs hr hc
  | str => exact State.inv_setMemories h hi hp (hs.write ha _) hr hc
  | rpb => exact State.inv_setMemories h hi hp hs (hr.write ha _) hc
  | cpb => exact State.inv_setMemories h hi hp hs hr (hc.write ha _)

theorem State.inv_forgetScratch : s.forgetScratch.inv = true := by
  obtain ⟨hi, hp, hs, -, -⟩ := State.memoriesSound_of_inv h
  have hle : s.draws ≤ s.draws + 2 := by omega
  exact State.inv_setMemories h (hi.mono hle) (hp.mono hle) (hs.mono hle)
    (Memory.sound_unspecified _ (by simp)) (Memory.sound_unspecified _ (by simp))

theorem State.inv_forgetRow : s.forgetRow.inv = true := by
  obtain ⟨hi, hp, hs, -, hc⟩ := State.memoriesSound_of_inv h
  have hle : s.draws ≤ s.draws + 2 := by omega
  exact State.inv_setMemories h (hi.mono hle) (hp.mono hle) (hs.mono hle)
    (Memory.sound_unspecified _ (by simp)) (hc.mono hle)

theorem State.inv_forgetFrame : s.forgetFrame.inv = true := by
  obtain ⟨hi, -, hs, -, -⟩ := State.memoriesSound_of_inv h
  have hle : s.draws ≤ s.draws + 3 := by omega
  exact State.inv_setMemories h (hi.mono hle) (Memory.sound_unspecified _ (by simp)) (hs.mono hle)
    (Memory.sound_unspecified _ (by simp)) (Memory.sound_unspecified _ (by simp))

/-! ### The end of a command -/

theorem inv_finishEncrow (hs : s.status ≠ .failed) {e : List Byte} (he : e.length ≤ Config.crowCap) :
    (finishEncrow e s).inv = true := by
  obtain ⟨hi, hp, hst, hr, hc⟩ := State.memoriesSound_of_inv h
  exact State.inv_markDone (State.inv_setMemories h hi hp hst hr (hc.writeRange he)) hs

theorem inv_finishDecrow (hs : s.status ≠ .failed) {r : List Byte} (hl : r.length ≤ Config.rowCap) :
    (finishDecrow r s).inv = true := by
  obtain ⟨hi, hp, hst, hr, hc⟩ := State.memoriesSound_of_inv h
  exact State.inv_markDone (State.inv_setMemories h hi hp hst (hr.writeRange hl) hc) hs

theorem inv_finishEncframe (hs : s.status ≠ .failed) {e : List Byte} (he : e.length ≤ Config.strCap) :
    (finishEncframe e s).inv = true := by
  obtain ⟨hi, hp, hst, hr, hc⟩ := State.memoriesSound_of_inv h
  exact State.inv_markDone (State.inv_forgetScratch (State.inv_setMemories h hi hp (hst.writeRange he) hr hc)) hs

theorem inv_finishDecframe (hs : s.status ≠ .failed) {d : List Byte} (hd : d.length ≤ Config.raw) :
    (finishDecframe d s).inv = true := by
  obtain ⟨hi, hp, hst, hr, hc⟩ := State.memoriesSound_of_inv h
  exact State.inv_markDone (State.inv_forgetScratch (State.inv_setMemories h hi (hp.writeRange hd) hst hr hc)) hs

theorem inv_failRow {e : StreamFault} (he : e.cause ≠ .none) : (failRow e s).inv = true :=
  State.inv_raise (State.inv_forgetRow h) he

theorem inv_failFrame {f : FaultRecord} (hf : f.cause ≠ .none) : (failFrame f s).inv = true :=
  State.inv_raise (State.inv_forgetFrame h) hf

/-! ### Commands -/

theorem inv_packBody (hs : s.status ≠ .failed) {g : Geometry} (hg : geometryOf s.cfgFmt = some g) :
    (packBody g s).inv = true := by
  have hlen : (pack g (s.indexMatrix g)).length ≤ Config.raw := by
    rw [length_pack_eq_rawBytes (geometryOf_wf hg), geometryOf_rawBytes hg]
  obtain ⟨hi, hp, hst, hr, hc⟩ := State.memoriesSound_of_inv h
  unfold packBody
  split
  · exact State.inv_raise h (by simp)
  · exact State.inv_markDone (State.inv_setMemories h hi (hp.writeRange hlen) hst hr hc) hs

theorem inv_unpackBody (hs : s.status ≠ .failed) {g : Geometry} (hg : geometryOf s.cfgFmt = some g) :
    (unpackBody g s).inv = true := by
  have hlen : (unpack g s.planeBytes).length ≤ Config.idxCap := by
    rw [length_unpack_eq_cellCount (geometryOf_wf hg)]
    exact geometryOf_cellCount hg
  obtain ⟨hi, hp, hst, hr, hc⟩ := State.memoriesSound_of_inv h
  exact State.inv_markDone (State.inv_setMemories h (hi.writeRange hlen) hp hst hr hc) hs

/-- The longest row, of 80 bytes, is encoded in at most 107, which fit CPB (R148). -/
theorem inv_encrowBody (hs : s.status ≠ .failed) : (encrowBody s).inv = true := by
  unfold encrowBody
  split
  · rename_i hlegal
    have hrow : s.rawRow.length = s.rowLen.toNat := Memory.length_readRange ..
    obtain ⟨-, hmax⟩ := State.rowLenLegal_iff.mp hlegal
    have hlen : (rleEncode s.rawRow).length ≤ (4 * s.rawRow.length + 2) / 3 :=
      length_rleEncode_le_of_short (by omega)
    exact inv_finishEncrow h hs (by unfold Config.crowCap; omega)
  · exact State.inv_raisePlain h (by simp) _

theorem inv_decrowBody (hs : s.status ≠ .failed) : (decrowBody s).inv = true := by
  unfold decrowBody
  split
  · rename_i hlegal
    split
    · split
      · rename_i e he
        exact inv_failRow h (rleDecode_error_cause_ne_none he)
      · rename_i r hr
        exact inv_finishDecrow h hs ((length_rleDecode_le hr).trans (State.rowLenLegal_iff.mp hlegal).2)
    · exact State.inv_raisePlain h (by simp) _
  · exact State.inv_raisePlain h (by simp) _

theorem inv_encframeBody (hs : s.status ≠ .failed) {g : Geometry} (hg : geometryOf s.cfgFmt = some g) :
    (encframeBody g s).inv = true :=
  inv_finishEncframe h hs (length_encodeFrame_le_strCap hg _)

theorem inv_decframeBody (hs : s.status ≠ .failed) {g : Geometry} (hg : geometryOf s.cfgFmt = some g) :
    (decframeBody g s).inv = true := by
  unfold decframeBody
  split
  · split
    · rename_i f hf
      exact inv_failFrame h (decodeFrame_error_cause_ne_none hf)
    · rename_i d hd
      exact inv_finishDecframe h hs ((length_decodeFrame hd).trans (geometryOf_rawBytes hg)).le
  · exact State.inv_raisePlain h (by simp) _

theorem inv_issueRow {body : State → State} (hbody : s.status ≠ .failed → (body s).inv = true) :
    (issueRow body s).inv = true := by
  by_cases hs : s.status = .failed
  · rwa [issueRow_failed hs]
  · rw [issueRow_ready hs]
    exact hbody hs

theorem inv_issueFrame {body : Geometry → State → State}
    (hbody : s.status ≠ .failed → ∀ {g}, geometryOf s.cfgFmt = some g → (body g s).inv = true) :
    (issueFrame body s).inv = true := by
  by_cases hs : s.status = .failed
  · rwa [issueFrame_failed hs]
  · cases hg : geometryOf s.cfgFmt with
    | none =>
      rw [issueFrame_reserved hs hg]
      exact State.inv_raisePlain h (by simp) 3
    | some g =>
      rw [issueFrame_ready hs hg]
      exact hbody hs hg

/-- Every command keeps the invariant. -/
theorem inv_exec_command {i : Instr} (hi : i.isStream = false) {t : State} (ht : exec i s = .next t) :
    t.inv = true := by
  cases i with
  | copy lits => cases hi
  | fill n val => cases hi
  | pack => cases ht; exact inv_issueFrame h (inv_packBody h)
  | unpack => cases ht; exact inv_issueFrame h (inv_unpackBody h)
  | encrow => cases ht; exact inv_issueRow h (inv_encrowBody h)
  | decrow => cases ht; exact inv_issueRow h (inv_decrowBody h)
  | encframe => cases ht; exact inv_issueFrame h (inv_encframeBody h)
  | decframe => cases ht; exact inv_issueFrame h (inv_decframeBody h)

/-- Every host action keeps the invariant. -/
theorem inv_performAction {a : HostAction} {t : State} (ht : performAction exec a s = .next t) : t.inv = true := by
  rcases performAction_cases ht with ⟨-, rfl⟩ | ⟨v, rfl⟩ | ⟨-, rfl⟩ | ⟨r, v, -, -, -, rfl⟩ |
    ⟨sp, b, v, -, hb, -, rfl⟩ | ⟨v, e, -, -, -, rfl⟩ | ⟨v, i, -, -, hdec, hexec⟩
  · exact State.inv_resetRegisters h
  · exact State.inv_setReply h _
  · exact h
  · exact State.inv_writeReg h r v
  · exact State.inv_writeCell h hb v
  · exact State.inv_raisePlain h (by simp) _
  · exact inv_exec_command h (decodeCommand_isStream hdec) hexec

end

/-! ### Reset and every step -/

/-- Settles O58: the five memories are unwritten and come from the draws 0 to 4, and every register is 0. -/
theorem invariantHoldsAtReset : Obligations.InvariantHoldsAtReset :=
  State.inv_iff.mpr
    ⟨⟨Memory.sound_unspecified _ (by decide), Memory.sound_unspecified _ (by decide),
        Memory.sound_unspecified _ (by decide), Memory.sound_unspecified _ (by decide),
        Memory.sound_unspecified _ (by decide)⟩,
      ⟨by decide, fun _ => by decide⟩, rfl⟩

/-- Settles O59: with no decoder running a step takes a host action, and every host action keeps the invariant. -/
theorem everyStepKeepsTheInvariant : Obligations.EveryStepKeepsTheInvariant := by
  intro s t h hstep
  obtain ⟨-, -, hdec⟩ := State.inv_iff.mp h
  obtain ⟨a, rest, -, ht⟩ := step_next hdec hstep
  exact inv_performAction (State.inv_takeAction h rest) ht

end Sys2Proof.Machine
end

section
/-! What a command leaves unchanged (20_memory.md R50, R63, R66). -/

namespace Sys2Proof.Machine

/-- From `s` to `t` command `i` has changed no memory but its destination (and a frame command's scratch buffers) and no
length register but its own (R50, R66); the fault registers, STATUS and the draws are left free. -/
structure CommandFrame (i : Instr) (s t : State) : Prop where
  cfgFmt : t.cfgFmt = s.cfgFmt
  rowLen : t.rowLen = s.rowLen
  dec : t.dec = s.dec
  host : t.host = s.host
  reply : t.reply = s.reply
  idx : i ≠ .unpack → t.idx = s.idx
  pln : i ≠ .pack → i ≠ .decframe → t.pln = s.pln
  str : i ≠ .encframe → t.str = s.str
  rpb : i ≠ .decrow → i ≠ .encframe → i ≠ .decframe → t.rpb = s.rpb
  cpb : i ≠ .encrow → i ≠ .encframe → i ≠ .decframe → t.cpb = s.cpb
  rowCnt : i ≠ .decrow → t.rowCnt = s.rowCnt
  crowLen : i ≠ .encrow → t.crowLen = s.crowLen
  strLen : i ≠ .encframe → t.strLen = s.strLen

/-! ### Faults -/

theorem CommandFrame.refl (i : Instr) (s : State) : CommandFrame i s s := by
  constructor <;> intros <;> rfl

/-- Taking a fault writes none of the registers and memories of the frame (R206). -/
theorem CommandFrame.raise {i : Instr} {s t : State} (h : CommandFrame i s t) (f : FaultRecord) :
    CommandFrame i s (t.raise f) :=
  { h with }

theorem commandFrame_raisePlain (i : Instr) (s : State) (cause : Cause) (val : Nat) :
    CommandFrame i s (s.raisePlain cause val) :=
  (CommandFrame.refl i s).raise _

/-- A faulted DECROW changes RPB and ROW_CNT (R208). -/
theorem commandFrame_failRow (e : StreamFault) (s : State) : CommandFrame .decrow s (failRow e s) := by
  refine CommandFrame.raise ?_ _
  constructor <;> simp

/-- A faulted DECFRAME changes PLN, RPB and CPB (R206, R208). -/
theorem commandFrame_failFrame (f : FaultRecord) (s : State) : CommandFrame .decframe s (failFrame f s) := by
  refine CommandFrame.raise ?_ _
  constructor <;> simp

/-! ### The bodies of the commands -/

theorem commandFrame_packBody (g : Geometry) (s : State) : CommandFrame .pack s (packBody g s) := by
  unfold packBody
  split
  · exact (CommandFrame.refl _ s).raise _
  · constructor <;> simp

theorem commandFrame_unpackBody (g : Geometry) (s : State) : CommandFrame .unpack s (unpackBody g s) := by
  constructor <;> simp [unpackBody]

theorem commandFrame_encrowBody (s : State) : CommandFrame .encrow s (encrowBody s) := by
  unfold encrowBody
  split
  · constructor <;> simp
  · exact commandFrame_raisePlain ..

theorem commandFrame_decrowBody (s : State) : CommandFrame .decrow s (decrowBody s) := by
  unfold decrowBody
  split
  · split
    · split
      · exact commandFrame_failRow ..
      · constructor <;> simp
    · exact commandFrame_raisePlain ..
  · exact commandFrame_raisePlain ..

theorem commandFrame_encframeBody (g : Geometry) (s : State) : CommandFrame .encframe s (encframeBody g s) := by
  constructor <;> simp [encframeBody]

theorem commandFrame_decframeBody (g : Geometry) (s : State) : CommandFrame .decframe s (decframeBody g s) := by
  unfold decframeBody
  split
  · split
    · exact commandFrame_failFrame ..
    · constructor <;> simp
  · exact commandFrame_raisePlain ..

/-! ### Issuing a command -/

theorem commandFrame_issueRow {i : Instr} {body : State → State} {s : State} (h : CommandFrame i s (body s)) :
    CommandFrame i s (issueRow body s) := by
  by_cases hs : s.status = .failed
  · rw [issueRow_failed hs]
    exact CommandFrame.refl i s
  · rwa [issueRow_ready hs]

theorem commandFrame_issueFrame {i : Instr} {body : Geometry → State → State} {s : State}
    (h : ∀ g, CommandFrame i s (body g s)) :
    CommandFrame i s (issueFrame body s) := by
  by_cases hs : s.status = .failed
  · rw [issueFrame_failed hs]
    exact CommandFrame.refl i s
  · cases hg : geometryOf s.cfgFmt with
    | none =>
      rw [issueFrame_reserved hs hg]
      exact commandFrame_raisePlain ..
    | some g =>
      rw [issueFrame_ready hs hg]
      exact h g

theorem commandFrame_exec {i : Instr} (hi : i.isStream = false) {s t : State} (ht : exec i s = .next t) :
    CommandFrame i s t := by
  cases i with
  | copy lits => cases hi
  | fill n val => cases hi
  | pack => cases ht; exact commandFrame_issueFrame fun g => commandFrame_packBody g s
  | unpack => cases ht; exact commandFrame_issueFrame fun g => commandFrame_unpackBody g s
  | encrow => cases ht; exact commandFrame_issueRow (commandFrame_encrowBody s)
  | decrow => cases ht; exact commandFrame_issueRow (commandFrame_decrowBody s)
  | encframe => cases ht; exact commandFrame_issueFrame fun g => commandFrame_encframeBody g s
  | decframe => cases ht; exact commandFrame_issueFrame fun g => commandFrame_decframeBody g s

/-- Settles O55: every branch of every command, the faults and FAILED included, keeps its frame. -/
theorem commandsWriteOnlyWhatTheyMay : Obligations.CommandsWriteOnlyWhatTheyMay := by
  intro s t i hi ht
  obtain ⟨hcfg, hrow, hdec, hhost, hreply, hidx, hpln, hstr, hrpb, hcpb, hcnt, hcrow, hslen⟩ :=
    commandFrame_exec hi ht
  exact ⟨hcfg, hrow, hdec, hhost, hreply, hidx, hpln, hstr, hrpb, hcpb, hcnt, hcrow, hslen⟩

end Sys2Proof.Machine
end

section
/-! What a command does is a function of its source and its registers (20_memory.md R63). -/

namespace Sys2Proof.Machine

/-! ### Agreement of memories and of outcomes -/

/-- Two memories read alike below `n`. -/
def Memory.agreeBelow {w : Nat} (n : Nat) (m m' : Memory w) : Prop :=
  ∀ a, a < n → m.read a = m'.read a

/-- Two destinations into which the same list was written read alike below its length, whatever they held before. -/
theorem Memory.agreeBelow_writeRange {w n : Nat} (m m' : Memory w) {l : List (BitVec w)} (hn : n ≤ l.length) :
    Memory.agreeBelow n (m.writeRange l) (m'.writeRange l) := by
  intro a ha
  have hal : a < l.length := by omega
  rw [(m.holds_writeRange l).1 a hal, (m'.holds_writeRange l).1 a hal]

/-- The same below an output length register, which holds the length of that list, cut to the register's width. -/
theorem Memory.agreeBelow_writeRange_ofNat {w : Nat} (k : Nat) (m m' : Memory w) (l : List (BitVec w)) :
    Memory.agreeBelow (BitVec.ofNat k l.length).toNat (m.writeRange l) (m'.writeRange l) := by
  refine Memory.agreeBelow_writeRange m m' ?_
  rw [BitVec.toNat_ofNat]
  exact Nat.mod_le _ _

theorem Memory.sameReads.readRange_eq {w : Nat} {m m' : Memory w} (h : m.sameReads m') (n : Nat) :
    m.readRange n = m'.readRange n :=
  Memory.readRange_congr fun a _ => h a

theorem Memory.sameReads.firstBadCell_eq {m m' : Memory 4} (h : m.sameReads m') (g : Geometry) :
    firstBadCell g m = firstBadCell g m' := by
  simp only [firstBadCell, h _]

/-- Two commands ended with the same STATUS, and if that is DONE, in states that `agree`. -/
def SameEnd (agree : State → State → Prop) (t t' : State) : Prop :=
  t.status = t'.status ∧ (t.status = .done → agree t t')

theorem sameEnd_done {agree : State → State → Prop} {t t' : State} (ht : t.status = .done) (ht' : t'.status = .done)
    (h : agree t t') : SameEnd agree t t' :=
  ⟨ht.trans ht'.symm, fun _ => h⟩

theorem sameEnd_failed {agree : State → State → Prop} {t t' : State} (ht : t.status = .failed)
    (ht' : t'.status = .failed) : SameEnd agree t t' :=
  ⟨ht.trans ht'.symm, fun hdone => by simp [ht] at hdone⟩

/-- The registers that a command reads hold the same in two states, both outside FAILED (R63, R190). -/
structure SameRegisters (s s' : State) : Prop where
  ready : s.status ≠ .failed
  ready' : s'.status ≠ .failed
  cfgFmt : s.cfgFmt = s'.cfgFmt
  rowLen : s.rowLen = s'.rowLen
  crowLen : s.crowLen = s'.crowLen
  strLen : s.strLen = s'.strLen

theorem SameRegisters.rowLenLegal_eq {s s' : State} (h : SameRegisters s s') : s.rowLenLegal = s'.rowLenLegal := by
  rw [State.rowLenLegal, h.rowLen, State.rowLenLegal]

/-! ### The commands -/

section

variable {s s' : State}

theorem sameEnd_issueRow (h : SameRegisters s s') {agree : State → State → Prop} {body : State → State}
    (hbody : SameEnd agree (body s) (body s')) : SameEnd agree (issueRow body s) (issueRow body s') := by
  rwa [issueRow_ready h.ready, issueRow_ready h.ready']

theorem sameEnd_issueFrame (h : SameRegisters s s') {agree : State → State → Prop}
    {body : Geometry → State → State}
    (hbody : ∀ g, geometryOf s.cfgFmt = some g → SameEnd agree (body g s) (body g s')) :
    SameEnd agree (issueFrame body s) (issueFrame body s') := by
  cases hg : geometryOf s.cfgFmt with
  | none =>
    rw [issueFrame_reserved h.ready hg, issueFrame_reserved h.ready' (h.cfgFmt ▸ hg)]
    exact sameEnd_failed rfl rfl
  | some g =>
    rw [issueFrame_ready h.ready hg, issueFrame_ready h.ready' (h.cfgFmt ▸ hg)]
    exact hbody g hg

/-- PACK reads IDX alone: the range check and the packed matrix are the same (R102, R103). -/
theorem sameEnd_packBody (hidx : s.idx.sameReads s'.idx) {g : Geometry} (hg : geometryOf s.cfgFmt = some g) :
    SameEnd (fun t t' => Memory.agreeBelow 32000 t.pln t'.pln) (packBody g s) (packBody g s') := by
  have hbad : firstBadCell g s.idx = firstBadCell g s'.idx := hidx.firstBadCell_eq g
  have hmatrix : s.indexMatrix g = s'.indexMatrix g := hidx.readRange_eq _
  have hlen : (pack g (s'.indexMatrix g)).length = 32000 := by
    rw [length_pack_eq_rawBytes (geometryOf_wf hg), geometryOf_rawBytes hg]
  simp only [packBody, hbad, hmatrix]
  cases firstBadCell g s'.idx with
  | some cell => exact sameEnd_failed rfl rfl
  | none => exact sameEnd_done rfl rfl (Memory.agreeBelow_writeRange _ _ hlen.ge)

/-- UNPACK reads PLN alone (R106). -/
theorem sameEnd_unpackBody (hpln : s.pln.sameReads s'.pln) {g : Geometry} (hg : geometryOf s.cfgFmt = some g) :
    SameEnd (fun t t' => Memory.agreeBelow g.cellCount t.idx t'.idx) (unpackBody g s) (unpackBody g s') := by
  have hbytes : s.planeBytes = s'.planeBytes := hpln.readRange_eq _
  simp only [unpackBody, hbytes]
  exact sameEnd_done rfl rfl
    (Memory.agreeBelow_writeRange _ _ (length_unpack_eq_cellCount (geometryOf_wf hg) _).ge)

/-- ENCROW reads ROW_LEN and RPB below it (R149). -/
theorem sameEnd_encrowBody (h : SameRegisters s s') (hrpb : s.rpb.sameReads s'.rpb) :
    SameEnd (fun t t' => t.crowLen = t'.crowLen ∧ Memory.agreeBelow t.crowLen.toNat t.cpb t'.cpb)
      (encrowBody s) (encrowBody s') := by
  have hlegal : s.rowLenLegal = s'.rowLenLegal := h.rowLenLegal_eq
  have hrow : s.rawRow = s'.rawRow := by rw [State.rawRow, h.rowLen, hrpb.readRange_eq, State.rawRow]
  simp only [encrowBody, hlegal, hrow]
  split
  · exact sameEnd_done rfl rfl ⟨rfl, Memory.agreeBelow_writeRange_ofNat 8 _ _ _⟩
  · exact sameEnd_failed rfl rfl

/-- DECROW reads ROW_LEN, CROW_LEN and CPB below it (R127). -/
theorem sameEnd_decrowBody (h : SameRegisters s s') (hcpb : s.cpb.sameReads s'.cpb) :
    SameEnd (fun t t' => t.rowCnt = t'.rowCnt ∧ Memory.agreeBelow t.rowCnt.toNat t.rpb t'.rpb)
      (decrowBody s) (decrowBody s') := by
  have hrowLegal : s.rowLenLegal = s'.rowLenLegal := h.rowLenLegal_eq
  have hcrowLegal : s.crowLenLegal = s'.crowLenLegal := by rw [State.crowLenLegal, h.crowLen, State.crowLenLegal]
  have hrow : s.codedRow = s'.codedRow := by rw [State.codedRow, h.crowLen, hcpb.readRange_eq, State.codedRow]
  simp only [decrowBody, hrowLegal, hcrowLegal, hrow, h.rowLen]
  split
  · split
    · cases rleDecode s'.codedRow s'.rowLen.toNat with
      | error e => exact sameEnd_failed rfl rfl
      | ok r => exact sameEnd_done rfl rfl ⟨rfl, Memory.agreeBelow_writeRange_ofNat 8 _ _ _⟩
    · exact sameEnd_failed rfl rfl
  · exact sameEnd_failed rfl rfl

/-- ENCFRAME reads PLN alone (R165). -/
theorem sameEnd_encframeBody (hpln : s.pln.sameReads s'.pln) (g : Geometry) :
    SameEnd (fun t t' => t.strLen = t'.strLen ∧ Memory.agreeBelow t.strLen.toNat t.str t'.str)
      (encframeBody g s) (encframeBody g s') := by
  have hbytes : s.planeBytes = s'.planeBytes := hpln.readRange_eq _
  simp only [encframeBody, hbytes]
  exact sameEnd_done rfl rfl ⟨rfl, Memory.agreeBelow_writeRange_ofNat 17 _ _ _⟩

/-- DECFRAME reads STR_LEN and STR below it (R169). -/
theorem sameEnd_decframeBody (h : SameRegisters s s') (hstr : s.str.sameReads s'.str) {g : Geometry}
    (hg : geometryOf s.cfgFmt = some g) :
    SameEnd (fun t t' => Memory.agreeBelow 32000 t.pln t'.pln) (decframeBody g s) (decframeBody g s') := by
  have hlegal : s.strLenLegal = s'.strLenLegal := by rw [State.strLenLegal, h.strLen, State.strLenLegal]
  have hstream : s.streamBytes = s'.streamBytes := by
    rw [State.streamBytes, h.strLen, hstr.readRange_eq, State.streamBytes]
  simp only [decframeBody, hlegal, hstream]
  split
  · cases hd : decodeFrame g s'.streamBytes with
    | error f => exact sameEnd_failed rfl rfl
    | ok d =>
      have hlen : d.length = 32000 := by rw [length_decodeFrame hd, geometryOf_rawBytes hg]
      exact sameEnd_done rfl rfl (Memory.agreeBelow_writeRange _ _ hlen.ge)
  · exact sameEnd_failed rfl rfl

end

/-- The destination of a completed command reads alike in two states: all of PLN, the used cells of IDX under CFG_FMT
`cfg`, or an output length and the cells below it. -/
def AgreeInDestination (cfg : BitVec 2) : Instr → State → State → Prop
  | .copy _, _, _ => True
  | .fill _ _, _, _ => True
  | .pack, t, t' => Memory.agreeBelow 32000 t.pln t'.pln
  | .unpack, t, t' => ∀ g, geometryOf cfg = some g → Memory.agreeBelow g.cellCount t.idx t'.idx
  | .encrow, t, t' => t.crowLen = t'.crowLen ∧ Memory.agreeBelow t.crowLen.toNat t.cpb t'.cpb
  | .decrow, t, t' => t.rowCnt = t'.rowCnt ∧ Memory.agreeBelow t.rowCnt.toNat t.rpb t'.rpb
  | .encframe, t, t' => t.strLen = t'.strLen ∧ Memory.agreeBelow t.strLen.toNat t.str t'.str
  | .decframe, t, t' => Memory.agreeBelow 32000 t.pln t'.pln

/-- Settles O56: each command reads the same list from its source in both states, so it takes the same branch and writes
the same list into its destination. -/
theorem commandOutcomeDependsOnlyOnItsSources : Obligations.CommandOutcomeDependsOnlyOnItsSources := by
  intro s s' t t' i hi hs hs' hcfg hrow hcrow hstr hpack hplane hencrow hdecrow hdecframe ht ht'
  have h : SameRegisters s s' := ⟨hs, hs', hcfg, hrow, hcrow, hstr⟩
  have hend : SameEnd (AgreeInDestination s.cfgFmt i) t t' := by
    cases i with
    | copy lits => cases hi
    | fill n val => cases hi
    | pack =>
      cases ht; cases ht'
      exact sameEnd_issueFrame h fun g hg => sameEnd_packBody (hpack rfl) hg
    | unpack =>
      cases ht; cases ht'
      refine sameEnd_issueFrame h fun g hg => ?_
      obtain ⟨hstatus, hdone⟩ := sameEnd_unpackBody (hplane (.inl rfl)) hg
      exact ⟨hstatus, fun hd g' hg' => (Option.some.inj (hg.symm.trans hg')) ▸ hdone hd⟩
    | encrow =>
      cases ht; cases ht'
      exact sameEnd_issueRow h (sameEnd_encrowBody h (hencrow rfl))
    | decrow =>
      cases ht; cases ht'
      exact sameEnd_issueRow h (sameEnd_decrowBody h (hdecrow rfl))
    | encframe =>
      cases ht; cases ht'
      exact sameEnd_issueFrame h fun g _ => sameEnd_encframeBody (hplane (.inr rfl)) g
    | decframe =>
      cases ht; cases ht'
      exact sameEnd_issueFrame h fun g hg => sameEnd_decframeBody h (hdecframe rfl) hg
  obtain ⟨hstatus, hdone⟩ := hend
  refine ⟨hstatus, fun hd => ⟨?_, ?_, ?_, ?_, ?_⟩⟩
  · rintro (rfl | rfl)
    · exact hdone hd
    · exact hdone hd
  all_goals
    rintro rfl
    exact hdone hd

end Sys2Proof.Machine
end

section
/-! Where `pack` puts every bit: the bits of a plane word, and the position of every word in the packed bytes
(20_memory.md R55 to R57, 40_bitplane.md R101). -/

namespace Sys2Proof.Machine

/-! ### Bits of a plane word -/

/-- A bit of an OR accumulated over a list is set when it is set at the start or in the word of some element. -/
theorem getLsbD_foldl_or {α : Type} {w : Nat} (f : α → BitVec w) (l : List α) (init : BitVec w) (i : Nat) :
    (l.foldl (fun v a => v ||| f a) init).getLsbD i = (init.getLsbD i || l.any fun a => (f a).getLsbD i) := by
  induction l generalizing init with
  | nil => simp
  | cons a l ih => rw [List.foldl_cons, ih, BitVec.getLsbD_or, List.any_cons, Bool.or_assoc]

/-- The one bit that `laneBit` may set is bit 15 − k. -/
theorem getLsbD_laneBit (v : IndexCell) (z : Nat) {j k : Nat} (hj : j < 16) (hk : k < 16) :
    (laneBit v z j).getLsbD (15 - k) = (decide (j = k) && v.getLsbD z) := by
  cases hv : v.getLsbD z with
  | false => simp [laneBit, hv]
  | true =>
    have hlane : (15 - k < 16 ∧ ¬ 15 - k < 15 - j) ∧ 15 - k - (15 - j) = 0 ↔ j = k := by omega
    rw [laneBit, if_pos hv, BitVec.getLsbD_shiftLeft, BitVec.getLsbD_one, Bool.and_true, Bool.eq_iff_iff]
    simpa using hlane

/-- Bit 15 − k of a packed word is bit z of the index of pixel k of its tile (R101). -/
theorem getLsbD_packWord (g : Geometry) (m : List IndexCell) (y t z : Nat) {k : Nat} (hk : k < 16) :
    (packWord g m y t z).getLsbD (15 - k) = (m.getD (g.cellAddr (16 * t + k) y) 0).getLsbD z := by
  rw [packWord, getLsbD_foldl_or, BitVec.getLsbD_zero, Bool.false_or, Bool.eq_iff_iff, List.any_eq_true]
  constructor
  · rintro ⟨j, hj, hbit⟩
    rw [getLsbD_laneBit _ _ (List.mem_range.mp hj) hk, Bool.and_eq_true, decide_eq_true_eq] at hbit
    obtain ⟨rfl, hbit⟩ := hbit
    exact hbit
  · intro hbit
    exact ⟨k, List.mem_range.mpr hk, by simpa [getLsbD_laneBit _ _ hk hk] using hbit⟩

/-- The first byte of a word holds its bits 15:8 (R55). -/
theorem getLsbD_wordToBytes_high (w : PlaneWord) {i : Nat} (hi : i < 8) :
    ((wordToBytes w).getD 0 0).getLsbD i = w.getLsbD (8 + i) := by
  simp [wordToBytes, hi]

/-- The second byte of a word holds its bits 7:0 (R55). -/
theorem getLsbD_wordToBytes_low (w : PlaneWord) {i : Nat} (hi : i < 8) :
    ((wordToBytes w).getD 1 0).getLsbD i = w.getLsbD i := by
  simp [wordToBytes, hi]

/-- The two bytes of a word, put together again, are the word. -/
theorem wordToBytes_append (w : PlaneWord) : (wordToBytes w).getD 0 0 ++ (wordToBytes w).getD 1 0 = w := by
  refine BitVec.eq_of_getLsbD_eq fun i hi => ?_
  rw [BitVec.getLsbD_append]
  by_cases hlow : i < 8
  · rw [if_pos hlow, getLsbD_wordToBytes_low w hlow]
  · rw [if_neg hlow, getLsbD_wordToBytes_high w (by omega), Nat.add_sub_of_le (by omega)]

/-! ### The position of a word in the packed bytes -/

/-- In a concatenation of `k` blocks of `n` elements each, element `j` of block `i` stands at position `i * n + j`. -/
theorem getD_flatMap_range {α : Type} (f : Nat → List α) {n : Nat} (hf : ∀ i, (f i).length = n) (d : α)
    {k i j : Nat} (hi : i < k) (hj : j < n) :
    ((List.range k).flatMap f).getD (i * n + j) d = (f i).getD j d := by
  induction k with
  | zero => omega
  | succ k ih =>
    have hlen : ((List.range k).flatMap f).length = k * n := by
      rw [length_flatMap_const f n _ fun a _ => hf a, List.length_range]
    rw [List.range_succ, List.flatMap_append, List.flatMap_singleton]
    by_cases hik : i = k
    · subst hik
      rw [List.getD_append_right _ _ _ _ (by omega), hlen, Nat.add_sub_cancel_left]
    · have hblock : (i + 1) * n ≤ k * n := Nat.mul_le_mul_right n (by omega)
      rw [Nat.succ_mul] at hblock
      rw [List.getD_append _ _ _ _ (by omega), ih (by omega)]

/-- Byte `b` of the plane-z word of tile t of scanline y stands at offset `woff(y, t, z) + b` (R56, R101). -/
theorem getD_pack (g : Geometry) (m : List IndexCell) {y t z b : Nat} (hy : y < g.h) (ht : t < g.tiles)
    (hz : z < g.planes) (hb : b < 2) :
    (pack g m).getD (g.woff y t z + b) 0 = (wordToBytes (packWord g m y t z)).getD b 0 := by
  have hoff : g.woff y t z + b = y * (g.tiles * (g.planes * 2)) + (t * (g.planes * 2) + (z * 2 + b)) := by
    unfold Geometry.woff
    ring
  have hword : z * 2 + b < g.planes * 2 := by omega
  have htile : t * (g.planes * 2) + (z * 2 + b) < g.tiles * (g.planes * 2) := by
    have hle : (t + 1) * (g.planes * 2) ≤ g.tiles * (g.planes * 2) := Nat.mul_le_mul_right _ ht
    rw [Nat.succ_mul] at hle
    omega
  have hlenTile (y t : Nat) :
      ((List.range g.planes).flatMap fun z => wordToBytes (packWord g m y t z)).length = g.planes * 2 := by
    rw [length_flatMap_const _ 2 _ fun z _ => length_wordToBytes _, List.length_range]
  have hlenLine (y : Nat) :
      ((List.range g.tiles).flatMap fun t =>
        (List.range g.planes).flatMap fun z => wordToBytes (packWord g m y t z)).length
        = g.tiles * (g.planes * 2) := by
    rw [length_flatMap_const _ (g.planes * 2) _ fun t _ => hlenTile y t, List.length_range]
  rw [hoff, pack, getD_flatMap_range _ hlenLine 0 hy htile, getD_flatMap_range _ (hlenTile y) 0 ht hword,
    getD_flatMap_range _ (fun z => length_wordToBytes _) 0 hz hb]

/-- The big-endian word at `woff(y, t, z)` of the packed bytes is the plane-z word of the tile (R55, R101). -/
theorem wordAt_pack (g : Geometry) (m : List IndexCell) {y t z : Nat} (hy : y < g.h) (ht : t < g.tiles)
    (hz : z < g.planes) : wordAt (pack g m) (g.woff y t z) = packWord g m y t z := by
  have hfirst := getD_pack g m hy ht hz (b := 0) (by decide)
  rw [Nat.add_zero] at hfirst
  rw [wordAt, hfirst, getD_pack g m hy ht hz (b := 1) (by decide), wordToBytes_append]

/-- The tile of a pixel of the picture is one of its scanline's tiles (R10). -/
theorem Geometry.tile_lt {g : Geometry} (hg : g.wf = true) {x : Nat} (hx : x < g.w) : x / 16 < g.tiles := by
  simp only [Geometry.wf, Bool.and_eq_true, decide_eq_true_eq] at hg
  unfold Geometry.tiles
  omega

/-- Settles O38: the word at `woff(y, t, z)` is the packed one, whose bit 15 − k is bit z of pixel k of the tile, and
its two bytes hold its bits 15:8 and 7:0. -/
theorem packPutsEveryBitInItsPlace : Obligations.PackPutsEveryBitInItsPlace := by
  intro g m hg _
  refine ⟨length_pack_eq_rawBytes hg m, fun x y z hx hy hz => ?_⟩
  have ht : x / 16 < g.tiles := Geometry.tile_lt hg hx
  have hpixel : 16 * (x / 16) + x % 16 = x := Nat.div_add_mod x 16
  have hbit : (packWord g m y (x / 16) z).getLsbD (15 - x % 16) = (m.getD (y * g.w + x) 0).getLsbD z := by
    rw [getLsbD_packWord g m y (x / 16) z (Nat.mod_lt x (by decide)), hpixel, Geometry.cellAddr]
  have hfirst := getD_pack g m hy ht hz (b := 0) (by decide)
  have hsecond := getD_pack g m hy ht hz (b := 1) (by decide)
  rw [Nat.add_zero] at hfirst
  refine ⟨by rw [wordAt_pack g m hy ht hz, hbit], fun hk => ?_, fun hk => ?_⟩
  · rw [hfirst, getLsbD_wordToBytes_high _ (by omega), ← hbit]
    congr 1
    omega
  · rw [hsecond, getLsbD_wordToBytes_low _ (by omega), hbit]

end Sys2Proof.Machine
end

section
/-! The bytes of a file (20_memory.md R62). -/

namespace Sys2Proof.Machine

/-- After a header of 34 bytes, file byte 34 + a is byte a of the pixel data (R62). -/
theorem getD_fileImage {header : List Byte} (h : header.length = 34) (pixelData : List Byte) (a : Nat) :
    (fileImage header pixelData).getD (34 + a) 0 = pixelData.getD a 0 := by
  rw [fileImage, List.getD_append_right _ _ _ _ (by omega), h, Nat.add_sub_cancel_left]

theorem length_fileImage {header : List Byte} (h : header.length = 34) (pixelData : List Byte) :
    (fileImage header pixelData).length = 34 + pixelData.length := by
  rw [fileImage, List.length_append, h]

theorem Memory.getD_readRange {w : Nat} (m : Memory w) {n a : Nat} (ha : a < n) (d : BitVec w) :
    (m.readRange n).getD a d = m.read a := by
  rw [List.getD_eq_getElem _ _ (by simpa using ha), Memory.getElem_readRange]

/-- Settles O57: the pixel data of both kinds of file is a range read from its memory, and stands behind the header. -/
theorem fileBytesAreThePixelData : Obligations.FileBytesAreThePixelData := by
  intro s header h
  refine ⟨?_, fun a ha => ?_, ?_, fun a ha => ?_⟩
  · have hlen : s.rawPixelData.length = 32000 := Memory.length_readRange ..
    rw [length_fileImage h, hlen]
  · rw [getD_fileImage h, State.rawPixelData, State.planeBytes, Memory.getD_readRange _ ha]
  · rw [length_fileImage h, State.compressedPixelData, State.streamBytes, Memory.length_readRange]
  · rw [getD_fileImage h, State.compressedPixelData, State.streamBytes, Memory.getD_readRange _ ha]

end Sys2Proof.Machine
end

section
/-! Decoding and encoding undo each other (30_encoding.md R80 to R90). -/

namespace Sys2Proof.Machine

/-! ### Well-formed instructions, and the two kinds of control byte -/

@[simp] theorem wf_copy_iff {lits : List Byte} :
    (Instr.copy lits).wf = true ↔ 1 ≤ lits.length ∧ lits.length ≤ 128 := by
  simp [Instr.wf]

@[simp] theorem wf_fill_iff {n : Nat} {v : Byte} : (Instr.fill n v).wf = true ↔ 2 ≤ n ∧ n ≤ 129 := by
  simp [Instr.wf]

/-- A command has no operand that could be wrong (R88). -/
theorem wf_of_isStream_eq_false {i : Instr} (h : i.isStream = false) : i.wf = true := by
  cases i with
  | copy lits => cases h
  | fill n v => cases h
  | pack | unpack | encrow | decrow | encframe | decframe => rfl

theorem opcodeCount_of_lt {c : Byte} (h : c.toNat < 128) : opcodeCount c = c.toNat + 1 := if_pos h

theorem opcodeCount_of_le {c : Byte} (h : 128 ≤ c.toNat) : opcodeCount c = 257 - c.toNat := if_neg (by omega)

/-- A COPY takes its control byte and as many literals as it counts (R84). -/
theorem opcodeSize_of_lt {c : Byte} (h : c.toNat < 128) : opcodeSize c = opcodeCount c + 1 := by
  rw [opcodeCount_of_lt h, opcodeSize, if_pos h]

theorem opcodeSize_of_le {c : Byte} (h : 128 ≤ c.toNat) : opcodeSize c = 2 := if_neg (by omega)

theorem toNat_copyByte {k : Nat} (h : k ≤ 128) : (BitVec.ofNat 8 (k - 1)).toNat = k - 1 :=
  Nat.mod_eq_of_lt (by omega)

theorem toNat_fillByte {k : Nat} (h : 2 ≤ k) : (BitVec.ofNat 8 (257 - k)).toNat = 257 - k :=
  Nat.mod_eq_of_lt (by omega)

/-! ### The stream decoder, one equation per kind of opcode -/

theorem decodeStream_copy {c : Byte} (h : c.toNat < 128) {rest : List Byte} (hr : opcodeCount c ≤ rest.length) :
    decodeStream (c :: rest) = .ok (.copy (rest.take (opcodeCount c)), rest.drop (opcodeCount c)) := by
  simp [decodeStream, h, Nat.not_lt.mpr hr]

theorem decodeStream_fill {c : Byte} (h : 128 ≤ c.toNat) (v : Byte) (rest : List Byte) :
    decodeStream (c :: v :: rest) = .ok (.fill (opcodeCount c) v, rest) := by
  simp [decodeStream, Nat.not_lt.mpr h]

theorem decodeStream_copy_append {c : Byte} (h : c.toNat < 128) {lits : List Byte} (hl : lits.length = opcodeCount c)
    (rest : List Byte) : decodeStream (c :: (lits ++ rest)) = .ok (.copy lits, rest) := by
  rw [decodeStream_copy h (by simp [hl]), ← hl, List.take_left, List.drop_left]

/-- The stream decoder reads a well-formed opcode's encoding back and leaves what follows it (R80). -/
theorem decodeStream_encode_append {i : Instr} (hs : i.isStream = true) (hwf : i.wf = true) (rest : List Byte) :
    decodeStream (encode i ++ rest) = .ok (i, rest) := by
  cases i with
  | copy lits =>
    obtain ⟨hpos, hle⟩ := wf_copy_iff.mp hwf
    have hc := toNat_copyByte hle
    have hlow : (BitVec.ofNat 8 (lits.length - 1)).toNat < 128 := by omega
    exact decodeStream_copy_append hlow (by rw [opcodeCount_of_lt hlow]; omega) rest
  | fill n v =>
    obtain ⟨hge, hle⟩ := wf_fill_iff.mp hwf
    have hc := toNat_fillByte hge
    have hhigh : 128 ≤ (BitVec.ofNat 8 (257 - n)).toNat := by omega
    have hn : opcodeCount (BitVec.ofNat 8 (257 - n)) = n := by rw [opcodeCount_of_le hhigh]; omega
    have hdec := decodeStream_fill hhigh v rest
    rwa [hn] at hdec
  | pack | unpack | encrow | decrow | encframe | decframe => cases hs

/-! ### The encoder on what a control byte introduces -/

theorem encode_copy_of_length {c : Byte} (h : c.toNat < 128) {lits : List Byte} (hl : lits.length = opcodeCount c) :
    encode (.copy lits) = c :: lits := by
  rw [encode, hl, opcodeCount_of_lt h, Nat.add_sub_cancel, BitVec.ofNat_toNat, BitVec.setWidth_eq]

theorem encode_fill_opcodeCount {c : Byte} (h : 128 ≤ c.toNat) (v : Byte) :
    encode (.fill (opcodeCount c) v) = [c, v] := by
  have hc : 257 - (257 - c.toNat) = c.toNat := by omega
  rw [encode, opcodeCount_of_le h, hc, BitVec.ofNat_toNat, BitVec.setWidth_eq]

/-- What the stream decoder reads behind control byte `c`: a well-formed opcode of c's size, whose encoding is the bytes
it takes (R81 to R84). -/
theorem decodeStream_cons_ok {c : Byte} {bs rest : List Byte} {i : Instr} (h : decodeStream (c :: bs) = .ok (i, rest)) :
    i.wf = true ∧ i.isStream = true ∧ c :: bs = encode i ++ rest ∧ (encode i).length = opcodeSize c := by
  rcases decodeStream_cases c bs with hd | ⟨hc, hn, hd⟩ | ⟨hc, v, rest', rfl, hd⟩
  · cases hd.symm.trans h
  · cases hd.symm.trans h
    have hl : (bs.take (opcodeCount c)).length = opcodeCount c := List.length_take_of_le hn
    have hcount := opcodeCount_of_lt hc
    refine ⟨wf_copy_iff.mpr (by omega), rfl, ?_, ?_⟩
    · rw [encode_copy_of_length hc hl, List.cons_append, List.take_append_drop]
    · rw [length_encode_copy, hl, opcodeSize_of_lt hc]
  · cases hd.symm.trans h
    have hcount := opcodeCount_of_le hc
    refine ⟨wf_fill_iff.mpr (by omega), rfl, ?_, ?_⟩
    · rw [encode_fill_opcodeCount hc, List.cons_append, List.singleton_append]
    · rw [length_encode_fill, opcodeSize_of_le hc]

/-- What the stream decoder reads is a well-formed opcode, and its encoding stood in front of the rest (R80). -/
theorem decodeStream_ok {bs rest : List Byte} {i : Instr} (h : decodeStream bs = .ok (i, rest)) :
    i.wf = true ∧ i.isStream = true ∧ bs = encode i ++ rest := by
  cases bs with
  | nil => cases h
  | cons c bs =>
    obtain ⟨hwf, hs, hbytes, -⟩ := decodeStream_cons_ok h
    exact ⟨hwf, hs, hbytes⟩

/-- The longest instruction is a COPY of 128 literals (R84). -/
theorem length_encode_le {i : Instr} (hwf : i.wf = true) : (encode i).length ≤ 129 := by
  cases i with
  | copy lits =>
    obtain ⟨-, hle⟩ := wf_copy_iff.mp hwf
    exact Nat.succ_le_succ hle
  | fill n v =>
    rw [length_encode_fill]
    decide
  | pack | unpack | encrow | decrow | encframe | decframe => decide

/-! ### Commands -/

/-- The command decoder reads a byte as a command exactly when the byte is the command's encoding (R88). -/
theorem decodeCommand_eq_ok_iff {v : Byte} {i : Instr} :
    decodeCommand v = .ok i ↔ i.isStream = false ∧ encode i = [v] := by
  constructor
  · intro h
    refine ⟨decodeCommand_isStream h, ?_⟩
    unfold decodeCommand at h
    -- In each arm that succeeds, `v.toNat` is the arm's command code.
    split at h <;> cases h
    all_goals exact congrArg (· :: []) (BitVec.eq_of_toNat_eq (by simp [*]))
  · rintro ⟨hs, he⟩
    cases i with
    | copy lits => cases hs
    | fill n v => cases hs
    | pack | unpack | encrow | decrow | encframe | decframe => cases he; rfl

theorem exists_encode_eq_singleton {i : Instr} (h : i.isStream = false) : ∃ v, encode i = [v] := by
  cases i with
  | copy lits => cases h
  | fill n v => cases h
  | pack | unpack | encrow | decrow | encframe | decframe => exact ⟨_, rfl⟩

/-! ### The statements -/

/-- Settles O2, by the equations of the two decoders. -/
theorem decodeOfEncodeIsTheInstruction : Obligations.DecodeOfEncodeIsTheInstruction := by
  intro i hwf
  refine ⟨fun hs rest => decodeStream_encode_append hs hwf rest, fun hs => ?_⟩
  obtain ⟨v, hv⟩ := exists_encode_eq_singleton hs
  exact ⟨v, hv, decodeCommand_eq_ok_iff.mpr ⟨hs, hv⟩⟩

/-- Settles O3, by what each decoder's success says of the bytes it read. -/
theorem encodeOfDecodeIsTheBytes : Obligations.EncodeOfDecodeIsTheBytes := by
  refine ⟨fun bs i rest h => decodeStream_ok h, fun v i h => ?_⟩
  obtain ⟨hs, hv⟩ := decodeCommand_eq_ok_iff.mp h
  exact ⟨wf_of_isStream_eq_false hs, hs, hv⟩

/-- Settles O1: the stream words by the decoder's equation for their kind, the command bytes by evaluation. -/
theorem specWordsDecodeAsTheSpecSays : Obligations.SpecWordsDecodeAsTheSpecSays :=
  ⟨decodeStream_copy (by decide) (by decide), decodeStream_fill (by decide) _ _, decodeStream_fill (by decide) _ _,
    decodeStream_fill (by decide) _ _, decodeStream_copy (by decide) (by decide), rfl, rfl, rfl, rfl, rfl, rfl, rfl, rfl⟩

/-- Settles O4. -/
theorem controlByteGivesTheCount : Obligations.ControlByteGivesTheCount := by
  refine ⟨fun c => ⟨fun h => ?_, fun h => ?_⟩, fun lits _ hle => ⟨rfl, toNat_copyByte hle⟩,
    fun k v hge _ => ⟨rfl, toNat_fillByte hge⟩⟩
  · rw [opcodeCount_of_lt h]
    omega
  · rw [opcodeCount_of_le h]
    omega

end Sys2Proof.Machine
end

section
/-! Running one opcode or one command: the opcode step on a whole opcode (41_rle_decode.md R121 to R123), and the step of a
placed word (44_host_interface.md R185, log entry 9). -/

namespace Sys2Proof.Machine

/-! ### The opcode step on an opcode that is there and fits -/

theorem decodeOp_of_decodeStream {inp rest : List Byte} {ip : Nat} {i : Instr}
    (h : decodeStream (inp.drop ip) = .ok (i, rest)) (op budget : Nat) :
    decodeOp inp ip op budget = opcodeStep i ip op budget := by
  rw [decodeOp, h]

theorem decodeOp_copy {inp rest : List Byte} {ip op budget : Nat} {c : Byte} (hin : inp.drop ip = c :: rest)
    (hc : c.toNat < 128) (hr : opcodeCount c ≤ rest.length) (hb : op + opcodeCount c ≤ budget) :
    decodeOp inp ip op budget = .ok (ip + opcodeSize c, rest.take (opcodeCount c)) := by
  have hl : (rest.take (opcodeCount c)).length = opcodeCount c := List.length_take_of_le hr
  rw [decodeOp_of_decodeStream (hin ▸ decodeStream_copy hc hr), opcodeStep]
  rcases copyOp_cases (rest.take (opcodeCount c)) ip op budget with ⟨-, hok⟩ | ⟨hover, -⟩
  · rw [hok, hl, opcodeSize_of_lt hc, Nat.add_assoc, Nat.add_comm 1]
  · omega

theorem decodeOp_fill {inp rest : List Byte} {ip op budget : Nat} {c v : Byte} (hin : inp.drop ip = c :: v :: rest)
    (hc : 128 ≤ c.toNat) (hb : op + opcodeCount c ≤ budget) :
    decodeOp inp ip op budget = .ok (ip + opcodeSize c, List.replicate (opcodeCount c) v) := by
  rw [decodeOp_of_decodeStream (hin ▸ decodeStream_fill hc v rest), opcodeStep]
  rcases fillOp_cases (opcodeCount c) v ip op budget with ⟨-, hok⟩ | ⟨hover, -⟩
  · rw [hok, opcodeSize_of_le hc]
  · omega

/-- Settles O5: with its operands present and room for 129 bytes, neither kind of opcode is cut off or overflows. -/
theorem everyControlByteIsALegalOpcode : Obligations.EveryControlByteIsALegalOpcode := by
  refine ⟨fun c rest op budget hrest hroom => ?_, fun v rest op budget hroom => ?_⟩
  · have hfits : op + opcodeCount c ≤ budget := by
      have := opcodeCount_le c
      omega
    rcases Nat.lt_or_ge c.toNat 128 with hc | hc
    · have hr : opcodeCount c ≤ rest.length := by
        rw [opcodeCount_of_lt hc]
        omega
      have hl : (rest.take (opcodeCount c)).length = opcodeCount c := List.length_take_of_le hr
      refine ⟨_, ?_, hl, (opcodeCount_pos c).trans_eq hl.symm⟩
      rw [decodeOp_copy rfl hc hr hfits, Nat.zero_add]
    · obtain ⟨v, rest, rfl⟩ := List.exists_cons_of_length_pos (l := rest) (by omega)
      have hl : (List.replicate (opcodeCount c) v).length = opcodeCount c := List.length_replicate
      refine ⟨_, ?_, hl, (opcodeCount_pos c).trans_eq hl.symm⟩
      rw [decodeOp_fill rfl hc hfits, Nat.zero_add]
  · exact decodeOp_fill (c := 0x80#8) rfl (by decide) hroom

/-! ### The step of a command, and of an opcode inside DECFRAME -/

/-- A write of a command code to CMD is the command's meaning, in FAILED too, where both change nothing (R184, R185). -/
theorem performAction_writeCmd {v : BitVec 32} {i : Instr} (h : decodeCommand (commandByte v) = .ok i) (s : State) :
    performAction exec (.writeReg cmdRegister v) s = exec i s := by
  by_cases hs : s.status = .failed
  · rw [exec_command_failed i (decodeCommand_isStream h) hs]
    simp [performAction, hostWriteReg, cmdRegister, hs]
  · simp [performAction, hostWriteReg, cmdRegister, hs, issueCommand, h]

/-- Inside DECFRAME, while the current row-plane lacks bytes, a step is the meaning of the opcode at ip (R167). -/
theorem step_insideFrame {s : State} {d : Decoder} {g : Geometry} {i : Instr} {rest : List Byte} (hd : s.dec = some d)
    (hg : d.geom = some g) (hrows : d.rows.length < g.rowPlanes) (hrow : d.row.length < g.rowBytes)
    (hdec : decodeStream (s.streamBytes.drop d.ip) = .ok (i, rest)) : step s = exec i s := by
  simp [step_inside hd, Decoder.step, hg, hrows, hrow, Decoder.fetchAndRun, Decoder.input, hdec]

/-! ### Placing a word -/

theorem step_placeCommand {v : Byte} {i : Instr} (h : decodeCommand v = .ok i) (s : State) :
    step (s.placeCommand v) = exec i { s with dec := none, reply := none } := by
  have hv : commandByte (v.setWidth 32) = v := BitVec.setWidth_setWidth_of_le v (by decide)
  rw [step_between (s := s.placeCommand v) rfl rfl, performAction_writeCmd (by rwa [hv])]
  rfl

theorem streamBytes_placeOpcode (s : State) {bytes : List Byte} (h : bytes.length < 2 ^ 17) :
    (s.placeOpcode bytes).streamBytes = bytes := by
  have hlen : (s.placeOpcode bytes).strLen.toNat = bytes.length := Nat.mod_eq_of_lt h
  rw [State.streamBytes, hlen]
  exact Memory.readRange_writeRange s.str bytes

/-- The geometry that a placed opcode runs under has a row-plane, and its row-planes have bytes. -/
theorem placeGeometry_pos (cfg : BitVec 2) :
    0 < ((geometryOf cfg).getD geometryPI1).rowPlanes ∧ 0 < ((geometryOf cfg).getD geometryPI1).rowBytes := by
  revert cfg
  decide

theorem step_placeOpcode {bytes rest : List Byte} {i : Instr} (hlen : bytes.length < 2 ^ 17)
    (h : decodeStream bytes = .ok (i, rest)) (s : State) :
    step (s.placeOpcode bytes) = exec i (s.placeOpcode bytes) := by
  obtain ⟨hplanes, hbytes⟩ := placeGeometry_pos s.cfgFmt
  exact step_insideFrame rfl rfl hplanes hbytes (by rwa [streamBytes_placeOpcode s hlen])

/-! ### Table words -/

/-- A table word is read as a command or, when it is no command word, as the opcode its bytes begin with (log entry 9). -/
theorem decodeTableWord_cases {nbits w : Nat} {i : Instr} (h : decodeTableWord nbits w = some i) :
    (isCommandWord nbits w = true ∧ decodeCommand (BitVec.ofNat 8 w) = .ok i) ∨
      (isCommandWord nbits w = false ∧ ∃ rest, decodeStream (tableBytes nbits w) = .ok (i, rest)) := by
  unfold decodeTableWord at h
  cases hw : isCommandWord nbits w with
  | true =>
    rw [if_pos hw] at h
    split at h
    next j hd => cases h; exact .inl ⟨rfl, hd⟩
    next => cases h
  | false =>
    rw [if_neg (by simp [hw])] at h
    split at h
    next j rest hd => cases h; exact .inr ⟨rfl, rest, hd⟩
    next => cases h

/-- The first byte of a one-byte table word is the word. -/
theorem tableBytes_eight (w : Nat) : ∃ rest, tableBytes 8 w = BitVec.ofNat 8 w :: rest := by
  have hfirst : BitVec.ofNat 8 ((w % 2 ^ 8) >>> (8 * 0)) = BitVec.ofNat 8 w := BitVec.eq_of_toNat_eq (by simp)
  rw [tableBytes, List.range_succ_eq_map (n := 128), List.map_cons, hfirst]
  exact ⟨_, rfl⟩

/-- What is placed for a stream word is the encoding of the opcode it stands for. -/
theorem opcodeBytes_eq_encode {w : Nat} {i : Instr} {rest : List Byte}
    (h : decodeStream (tableBytes 8 w) = .ok (i, rest)) : opcodeBytes 8 w = encode i := by
  obtain ⟨tail, ht⟩ := tableBytes_eight w
  rw [ht] at h
  obtain ⟨-, -, hbytes, hlen⟩ := decodeStream_cons_ok h
  rw [opcodeBytes, ht, hbytes, ← hlen, List.take_left]

/-- Settles O7: a command word stands as a write to CMD, a stream word as the whole stream of a DECFRAME just begun. -/
theorem placedWordIsRunByTheNextStep : Obligations.PlacedWordIsRunByTheNextStep := by
  intro s w i _ h
  rcases decodeTableWord_cases h with ⟨hw, hd⟩ | ⟨hw, rest, hd⟩
  · have hplaced : s.withFetchWord 8 w = s.placeCommand (BitVec.ofNat 8 w) := if_pos hw
    refine ⟨fun _ => hplaced ▸ step_placeCommand hd s, fun hs => ?_⟩
    exact absurd hs (by simp [decodeCommand_isStream hd])
  · have hplaced : s.withFetchWord 8 w = s.placeOpcode (encode i) := by
      rw [State.withFetchWord, if_neg (by simp [hw]), opcodeBytes_eq_encode hd]
    obtain ⟨hwf, hstream, -⟩ := decodeStream_ok hd
    have hlen : (encode i).length < 2 ^ 17 := (length_encode_le hwf).trans_lt (by decide)
    have hread := decodeStream_encode_append hstream hwf []
    rw [List.append_nil] at hread
    exact ⟨fun hs => absurd hstream (by simp [hs]), fun _ => hplaced ▸ step_placeOpcode hlen hread s⟩

end Sys2Proof.Machine
end

section
/-! The plane words cover the plane bytes, the pixels of the tiles cover the index matrix, and `unpack` is the inverse of
`pack` (20_memory.md R51, R56, R58, 40_bitplane.md R105, R107, R109). -/

namespace Sys2Proof.Machine

/-! ### A well-formed geometry, divided into tiles -/

section

variable {g : Geometry}

theorem Geometry.w_eq (hg : g.wf = true) : g.w = g.tiles * 16 := by
  simp only [Geometry.wf, Bool.and_eq_true, decide_eq_true_eq] at hg
  unfold Geometry.tiles
  omega

/-- An index cell of 4 bits has room for every bitplane (R10, R14). -/
theorem Geometry.planes_le_four (hg : g.wf = true) : g.planes ≤ 4 := by
  simp only [Geometry.wf, Bool.and_eq_true, decide_eq_true_eq] at hg
  rw [Geometry.planes, Nat.one_shiftLeft]
  exact Nat.pow_le_pow_right (by decide) hg.2

theorem Geometry.rawBytes_eq (hg : g.wf = true) : g.rawBytes = g.h * (g.tiles * (g.planes * 2)) :=
  (length_pack_eq_rawBytes hg []).symm.trans (length_pack g [])

/-- Both bytes of every plane word lie inside the plane bytes (R58). -/
theorem Geometry.woff_add_lt (hg : g.wf = true) {y t z b : Nat} (hy : y < g.h) (ht : t < g.tiles) (hz : z < g.planes)
    (hb : b < 2) : g.woff y t z + b < g.rawBytes := by
  have htile : g.tiles * y + t < g.h * g.tiles := Nat.mul_add_lt_mul_of_lt_of_lt hy ht
  have hword : g.planes * (g.tiles * y + t) + z < g.h * g.tiles * g.planes :=
    Nat.mul_add_lt_mul_of_lt_of_lt htile hz
  have hbyte := Nat.mul_add_lt_mul_of_lt_of_lt hword hb
  calc g.woff y t z + b = 2 * (g.planes * (g.tiles * y + t) + z) + b := by unfold Geometry.woff; ring
    _ < g.h * g.tiles * g.planes * 2 := hbyte
    _ = g.rawBytes := by rw [Geometry.rawBytes_eq hg]; ring

/-- Every offset of the plane bytes is byte 0 or byte 1 of a plane word (R56). -/
theorem Geometry.exists_woff_add_eq (hg : g.wf = true) {a : Nat} (ha : a < g.rawBytes) :
    ∃ y t z b, y < g.h ∧ t < g.tiles ∧ z < g.planes ∧ b < 2 ∧ g.woff y t z + b = a := by
  rw [Geometry.rawBytes_eq hg, ← Nat.mul_assoc, ← Nat.mul_assoc] at ha
  have hword : a / 2 < g.h * g.tiles * g.planes := Nat.div_lt_of_lt_mul (by rwa [Nat.mul_comm])
  have htile : a / 2 / g.planes < g.h * g.tiles := Nat.div_lt_of_lt_mul (by rwa [Nat.mul_comm])
  have hline : a / 2 / g.planes / g.tiles < g.h := Nat.div_lt_of_lt_mul (by rwa [Nat.mul_comm])
  refine ⟨_, _, _, _, hline, Nat.mod_lt (a / 2 / g.planes) ?_, Nat.mod_lt (a / 2) ?_, Nat.mod_lt a (by decide), ?_⟩
  · exact Nat.pos_of_mul_pos_left (Nat.zero_lt_of_lt htile)
  · exact Nat.pos_of_mul_pos_left (Nat.zero_lt_of_lt hword)
  · rw [Geometry.woff, Nat.div_add_mod', Nat.div_add_mod', Nat.div_add_mod']

/-- Every cell of the index matrix is a pixel of a tile (R51). -/
theorem Geometry.exists_cellAddr_eq (hg : g.wf = true) {a : Nat} (ha : a < g.cellCount) :
    ∃ y t k, y < g.h ∧ t < g.tiles ∧ k < 16 ∧ g.cellAddr (16 * t + k) y = a := by
  have hw : 0 < g.w := Nat.pos_of_mul_pos_right (Nat.zero_lt_of_lt ha)
  refine ⟨a / g.w, a % g.w / 16, a % g.w % 16, Nat.div_lt_of_lt_mul ha,
    Geometry.tile_lt hg (Nat.mod_lt a hw), Nat.mod_lt _ (by decide), ?_⟩
  rw [Geometry.cellAddr, Nat.div_add_mod, Nat.div_add_mod']

end

/-- Settles O37: the offsets under each geometry from its T and P, and the bounds from the word's place in the bytes. -/
theorem wordOffsetsAreEvenAndInside : Obligations.WordOffsetsAreEvenAndInside := by
  refine ⟨fun y t z => ?_, fun g y t z hg hy ht hz =>
    ⟨rfl, Nat.mul_mod_left _ 2, Geometry.woff_add_lt hg hy ht hz (by decide)⟩⟩
  simp only [Geometry.woff, geometryPI1_parameters, geometryPI2_parameters, geometryPI3_parameters]
  omega

/-! ### The cells of an unpacked matrix -/

/-- Bit z of an unpacked index is bit 15 − k of the plane-z word of its tile, for the bitplanes there are (R105). -/
theorem getLsbD_unpackCell (g : Geometry) (d : List Byte) (y t k : Nat) {z : Nat} (hz : z < 4) :
    (unpackCell g d y t k).getLsbD z = (decide (z < g.planes) && (wordAt d (g.woff y t z)).getLsbD (15 - k)) := by
  have hplane (i : Nat) : ((if (wordAt d (g.woff y t i)).getLsbD (15 - k) then 1#4 else 0#4) <<< i).getLsbD z
      = (decide (i = z) && (wordAt d (g.woff y t i)).getLsbD (15 - k)) := by
    cases hbit : (wordAt d (g.woff y t i)).getLsbD (15 - k) with
    | false => simp
    | true =>
      have hat : (z < 4 ∧ ¬ z < i) ∧ z - i = 0 ↔ i = z := by omega
      rw [if_pos rfl, BitVec.getLsbD_shiftLeft, BitVec.getLsbD_one, Bool.and_true, Bool.eq_iff_iff]
      simpa using hat
  rw [unpackCell, getLsbD_foldl_or, BitVec.getLsbD_zero, Bool.false_or, Bool.eq_iff_iff]
  simp [hplane]

/-- An unpacked index is below 2^P: its bits at and above P are 0 (R105). -/
theorem unpackCell_lt (g : Geometry) (d : List Byte) (y t k : Nat) :
    (unpackCell g d y t k).toNat < 2 ^ g.planes := by
  refine Nat.lt_pow_two_of_testBit _ fun z hz => ?_
  rw [BitVec.testBit_toNat]
  by_cases h4 : z < 4
  · rw [getLsbD_unpackCell g d y t k h4, decide_eq_false (by omega), Bool.false_and]
  · exact BitVec.getLsbD_of_ge _ _ (by omega)

/-- The index of pixel k of tile t of scanline y stands at its cell's address (R51, R105). -/
theorem getD_unpack {g : Geometry} (hg : g.wf = true) (d : List Byte) {y t k : Nat} (hy : y < g.h) (ht : t < g.tiles)
    (hk : k < 16) : (unpack g d).getD (g.cellAddr (16 * t + k) y) 0 = unpackCell g d y t k := by
  have haddr : g.cellAddr (16 * t + k) y = y * (g.tiles * 16) + (t * 16 + k) := by
    rw [Geometry.cellAddr, Geometry.w_eq hg, Nat.mul_comm 16 t]
  have htile : t * 16 + k < g.tiles * 16 := by omega
  have hlenTile (y t : Nat) : ((List.range 16).map fun k => unpackCell g d y t k).length = 16 := by simp
  have hlenLine (y : Nat) :
      ((List.range g.tiles).flatMap fun t => (List.range 16).map fun k => unpackCell g d y t k).length
        = g.tiles * 16 := by
    rw [length_flatMap_const _ 16 _ fun t _ => hlenTile y t, List.length_range]
  rw [haddr, unpack, getD_flatMap_range _ hlenLine 0 hy htile, getD_flatMap_range _ (hlenTile y) 0 ht hk]
  simp [hk]

theorem lt_of_mem_unpack {g : Geometry} {d : List Byte} {v : IndexCell} (hv : v ∈ unpack g d) :
    v.toNat < 2 ^ g.planes := by
  simp only [unpack, List.mem_flatMap, List.mem_map] at hv
  obtain ⟨y, -, t, -, k, -, rfl⟩ := hv
  exact unpackCell_lt g d y t k

/-- Settles O39: pixel (x, y) is pixel x mod 16 of tile x div 16, whose bits are those of the tile's plane words. -/
theorem unpackTakesEveryBitFromItsPlace : Obligations.UnpackTakesEveryBitFromItsPlace := by
  intro g d hg _
  refine ⟨length_unpack_eq_cellCount hg d, fun v hv => lt_of_mem_unpack hv, fun x y z hx hy hz => ?_⟩
  have hcell := getD_unpack hg d hy (Geometry.tile_lt hg hx) (Nat.mod_lt x (by decide : 0 < 16))
  rw [Nat.div_add_mod, Geometry.cellAddr] at hcell
  rw [hcell, getLsbD_unpackCell g d y _ _ (hz.trans_le (Geometry.planes_le_four hg)), decide_eq_true hz, Bool.true_and]

/-! ### The two functions undo each other -/

/-- The two bytes of the word at offset `a` are the bytes at `a` and `a + 1` (R55). -/
theorem getD_wordToBytes_wordAt (d : List Byte) (a : Nat) {b : Nat} (hb : b < 2) :
    (wordToBytes (wordAt d a)).getD b 0 = d.getD (a + b) 0 := by
  refine BitVec.eq_of_getLsbD_eq fun i hi => ?_
  obtain rfl | rfl : b = 0 ∨ b = 1 := by omega
  · rw [getLsbD_wordToBytes_high _ hi, wordAt, BitVec.getLsbD_append, if_neg (by omega), Nat.add_sub_cancel_left,
      Nat.add_zero]
  · rw [getLsbD_wordToBytes_low _ hi, wordAt, BitVec.getLsbD_append, if_pos hi]

/-- Packing the unpacked pixels of a tile gives back each of its plane words. -/
theorem packWord_unpack {g : Geometry} (hg : g.wf = true) (d : List Byte) {y t z : Nat} (hy : y < g.h)
    (ht : t < g.tiles) (hz : z < g.planes) : packWord g (unpack g d) y t z = wordAt d (g.woff y t z) := by
  refine BitVec.eq_of_getLsbD_eq fun i hi => ?_
  have hk : 15 - i < 16 := by omega
  have hlane : 15 - (15 - i) = i := by omega
  have hbit := getLsbD_packWord g (unpack g d) y t z hk
  rw [getD_unpack hg d hy ht hk, getLsbD_unpackCell g d y t _ (hz.trans_le (Geometry.planes_le_four hg)),
    decide_eq_true hz, Bool.true_and, hlane] at hbit
  exact hbit

/-- Unpacking a packed matrix gives back each of its values below 2^P. -/
theorem unpackCell_pack {g : Geometry} {m : List IndexCell} {y t k : Nat} (hy : y < g.h) (ht : t < g.tiles)
    (hk : k < 16) (hm : (m.getD (g.cellAddr (16 * t + k) y) 0).toNat < 2 ^ g.planes) :
    unpackCell g (pack g m) y t k = m.getD (g.cellAddr (16 * t + k) y) 0 := by
  refine BitVec.eq_of_getLsbD_eq fun z hz4 => ?_
  rw [getLsbD_unpackCell g _ y t k hz4]
  by_cases hz : z < g.planes
  · rw [decide_eq_true hz, Bool.true_and, wordAt_pack g m hy ht hz, getLsbD_packWord g m y t z hk]
  · have hzero : (m.getD (g.cellAddr (16 * t + k) y) 0).toNat.testBit z = false :=
      Nat.testBit_eq_false_of_lt (hm.trans_le (Nat.pow_le_pow_right (by decide) (Nat.le_of_not_lt hz)))
    rw [decide_eq_false hz, Bool.false_and, ← hzero, BitVec.testBit_toNat]

/-- Two lists of one length that agree at every index are equal, whatever default is read past their end. -/
theorem eq_of_getD_eq {α : Type} {l l' : List α} (d : α) (hlen : l.length = l'.length)
    (h : ∀ a, a < l'.length → l.getD a d = l'.getD a d) : l = l' := by
  refine List.ext_getElem hlen fun a ha ha' => ?_
  rw [← List.getD_eq_getElem l d ha, ← List.getD_eq_getElem l' d ha']
  exact h a ha'

theorem unpack_pack {g : Geometry} (hg : g.wf = true) {m : List IndexCell} (hlen : m.length = g.cellCount)
    (hm : ∀ v ∈ m, v.toNat < 2 ^ g.planes) : unpack g (pack g m) = m := by
  refine eq_of_getD_eq 0 ((length_unpack_eq_cellCount hg _).trans hlen.symm) fun a ha => ?_
  have hval : (m.getD a 0).toNat < 2 ^ g.planes := by
    rw [List.getD_eq_getElem m 0 ha]
    exact hm _ (List.getElem_mem ha)
  obtain ⟨y, t, k, hy, ht, hk, rfl⟩ := Geometry.exists_cellAddr_eq hg (hlen ▸ ha)
  rw [getD_unpack hg _ hy ht hk, unpackCell_pack hy ht hk hval]

theorem pack_unpack {g : Geometry} (hg : g.wf = true) {d : List Byte} (hlen : d.length = g.rawBytes) :
    pack g (unpack g d) = d := by
  refine eq_of_getD_eq 0 ((length_pack_eq_rawBytes hg _).trans hlen.symm) fun a ha => ?_
  obtain ⟨y, t, z, b, hy, ht, hz, hb, rfl⟩ := Geometry.exists_woff_add_eq hg (hlen ▸ ha)
  rw [getD_pack g _ hy ht hz hb, packWord_unpack hg d hy ht hz, getD_wordToBytes_wordAt d _ hb]

/-- Settles O40: a cell is a pixel of one tile and a byte is half of one plane word, and each is given back bit by bit. -/
theorem packAndUnpackAreInverse : Obligations.PackAndUnpackAreInverse :=
  fun _ hg => ⟨fun _ hlen hm => unpack_pack hg hlen hm, fun _ hlen => pack_unpack hg hlen⟩

end Sys2Proof.Machine
end

section
/-! PACK and UNPACK as commands: the range check, the destinations they leave, and PACK after UNPACK (40_bitplane.md R102,
R103, R106, R107). -/

namespace Sys2Proof.Machine

/-! ### What a destination reads back as -/

/-- The range that was written reads back as what was written. -/
theorem Memory.holds.readRange_eq {w n : Nat} {m before : Memory w} {l : List (BitVec w)} (h : m.holds before l)
    (hn : l.length = n) : m.readRange n = l := by
  refine List.ext_getElem (by simp [hn]) fun a _ ha => ?_
  rw [Memory.getElem_readRange]
  exact h.1 a ha

/-- Writing back what a range reads as changes no cell. -/
theorem Memory.holds.sameReads {w n : Nat} {m before : Memory w} (h : m.holds before (before.readRange n)) :
    m.sameReads before := by
  obtain ⟨hbelow, habove⟩ := h
  intro a
  by_cases ha : a < (before.readRange n).length
  · rw [hbelow a ha, Memory.getElem_readRange]
  · exact habove a (Nat.le_of_not_lt ha)

/-! ### The range check -/

/-- A search of 0, 1, 2, … answers at the first number that has an answer. -/
theorem findSome?_range_eq_some {α : Type} {f : Nat → Option α} {n i : Nat} {v : α} (hi : i < n) (hv : f i = some v)
    (hbefore : ∀ j, j < i → f j = none) : (List.range n).findSome? f = some v := by
  rw [List.findSome?_eq_some_iff]
  obtain ⟨k, rfl⟩ : ∃ k, n = i + (k + 1) := ⟨n - i - 1, by omega⟩
  refine ⟨List.range i, i, (List.range' (i + 1) k), ?_, hv, fun j hj => hbefore j (List.mem_range.mp hj)⟩
  rw [List.range_eq_range', List.range_eq_range', ← List.range'_append_1, Nat.zero_add, List.range'_succ]

theorem Geometry.cellAddr_lt {g : Geometry} {x y : Nat} (hx : x < g.w) (hy : y < g.h) :
    g.cellAddr x y < g.w * g.h := by
  rw [Geometry.cellAddr, Nat.mul_comm y, Nat.mul_comm g.w g.h]
  exact Nat.mul_add_lt_mul_of_lt_of_lt hy hx

/-- Row-major order: every cell of an earlier scanline comes before pixel (x, y). -/
theorem Geometry.cellAddr_lt_cellAddr {g : Geometry} {x y x' y' : Nat} (hx' : x' < g.w) (hy : y' < y) :
    g.cellAddr x' y' < g.cellAddr x y := by
  have hline : (y' + 1) * g.w ≤ y * g.w := Nat.mul_le_mul_right _ hy
  rw [Nat.succ_mul] at hline
  unfold Geometry.cellAddr
  omega

/-- The range check passes when every used cell is below 2^P (R103). -/
theorem firstBadCell_eq_none {g : Geometry} {m : Memory 4}
    (h : ∀ a, a < g.w * g.h → (m.read a).toNat < 2 ^ g.planes) : firstBadCell g m = none := by
  rw [firstBadCell, List.findSome?_eq_none_iff]
  intro y hy
  rw [List.findSome?_eq_none_iff]
  intro x hx
  exact if_neg (Nat.not_le.mpr (h _ (Geometry.cellAddr_lt (List.mem_range.mp hx) (List.mem_range.mp hy))))

/-- The range check finds the bad cell that no bad cell comes before in row-major order (R103). -/
theorem firstBadCell_eq_some {g : Geometry} {m : Memory 4} {x y : Nat} (hx : x < g.w) (hy : y < g.h)
    (hbad : 2 ^ g.planes ≤ (m.read (g.cellAddr x y)).toNat)
    (hbefore : ∀ a, a < g.cellAddr x y → (m.read a).toNat < 2 ^ g.planes) :
    firstBadCell g m = some (y, x, m.read (g.cellAddr x y)) := by
  refine findSome?_range_eq_some hy (findSome?_range_eq_some hx (if_pos hbad) fun x' hx' => ?_) fun y' hy' => ?_
  · exact if_neg (Nat.not_le.mpr (hbefore _ (Nat.add_lt_add_left hx' _)))
  · rw [List.findSome?_eq_none_iff]
    intro x' hx'
    exact if_neg (Nat.not_le.mpr (hbefore _ (Geometry.cellAddr_lt_cellAddr (List.mem_range.mp hx') hy')))

theorem packBody_bad {g : Geometry} {s : State} {x y : Nat} {v : IndexCell}
    (h : firstBadCell g s.idx = some (y, x, v)) :
    packBody g s = s.raise ⟨.indexRange, y, 0, x, 0, v.toNat⟩ := by
  rw [packBody, h]

theorem packBody_good {g : Geometry} {s : State} (h : firstBadCell g s.idx = none) :
    packBody g s = { s with pln := s.pln.writeRange (pack g (s.indexMatrix g)) }.markDone := by
  rw [packBody, h]

/-! ### The commands -/

theorem exec_pack_eq (s : State) : exec .pack s = .next (issueFrame packBody s) := rfl

theorem exec_unpack_eq (s : State) : exec .unpack s = .next (issueFrame unpackBody s) := rfl

/-- Settles O41: the three outcomes are the three branches of issuing PACK and of its range check. -/
theorem packCommandFollowsItsRule : Obligations.PackCommandFollowsItsRule := by
  intro s hs
  refine ⟨fun hcfg => ?_, fun g hg => ⟨fun x y hx hy hbad hbefore => ?_, fun hgood => ?_⟩⟩
  · rw [exec_pack_eq, issueFrame_reserved hs (hcfg ▸ geometryOf_three), State.raisePlain]
  · rw [exec_pack_eq, issueFrame_ready hs hg, packBody_bad (firstBadCell_eq_some hx hy hbad hbefore),
      Geometry.cellAddr]
  · rw [exec_pack_eq, issueFrame_ready hs hg, packBody_good (firstBadCell_eq_none hgood)]
    exact ⟨_, rfl, Memory.holds_writeRange _ _,
      (length_pack_eq_rawBytes (geometryOf_wf hg) _).trans (geometryOf_rawBytes hg), rfl⟩

/-- Settles O42: the body of UNPACK writes the unpacked matrix, whose values are all below 2^P, and nothing else. -/
theorem unpackCommandFollowsItsRule : Obligations.UnpackCommandFollowsItsRule := by
  intro s hs
  refine ⟨fun hcfg => ?_, fun g hg => ?_⟩
  · rw [exec_unpack_eq, issueFrame_reserved hs (hcfg ▸ geometryOf_three), State.raisePlain]
  · have hlen : (unpack g s.planeBytes).length = g.w * g.h := length_unpack_eq_cellCount (geometryOf_wf hg) _
    have hidx := s.idx.holds_writeRange (unpack g s.planeBytes)
    rw [exec_unpack_eq, issueFrame_ready hs hg]
    refine ⟨_, rfl, hidx, hlen, fun a ha => ?_, rfl⟩
    have hmem : a < (unpack g s.planeBytes).length := hlen ▸ ha
    exact (congrArg BitVec.toNat (hidx.1 a hmem)).trans_lt (lt_of_mem_unpack (List.getElem_mem hmem))

/-- Settles O43: UNPACK leaves every used cell below 2^P, so PACK passes its range check and writes back the packed form
of the unpacked matrix, which is what PLN held. -/
theorem packUndoesUnpack : Obligations.PackUndoesUnpack := by
  intro s g hs hg
  obtain ⟨t, ht, hidx, hlen, hvalues, hframe⟩ := (unpackCommandFollowsItsRule s hs).2 g hg
  have hdone : t.status = .done := by rw [hframe]
  have hcfg : t.cfgFmt = s.cfgFmt := by rw [hframe]
  have hpln : t.pln = s.pln := by rw [hframe]
  obtain ⟨u, hu, hbytes, -, hframe'⟩ := ((packCommandFollowsItsRule t (by simp [hdone])).2 g (hcfg ▸ hg)).2 hvalues
  refine ⟨t, u, ht, hu, by rw [hframe'], ?_⟩
  have hraw : (s.pln.readRange 32000).length = g.rawBytes := by
    rw [Memory.length_readRange, geometryOf_rawBytes hg]
  rw [hidx.readRange_eq hlen, pack_unpack (geometryOf_wf hg) hraw, hpln] at hbytes
  exact hbytes.sameReads

end Sys2Proof.Machine
end

section
/-! The opcode step and its fault cases, and COPY and FILL in a running decoder (41_rle_decode.md R121 to R125, log entry
4). -/

namespace Sys2Proof.Machine

/-! ### Fits or overflows -/

theorem copyOp_of_le {lits : List Byte} {op budget : Nat} (h : op + lits.length ≤ budget) (ip : Nat) :
    copyOp lits ip op budget = .ok (ip + 1 + lits.length, lits) := by
  obtain ⟨-, hok⟩ | ⟨hover, -⟩ := copyOp_cases lits ip op budget
  · exact hok
  · omega

theorem copyOp_of_lt {lits : List Byte} {op budget : Nat} (h : budget < op + lits.length) (ip : Nat) :
    copyOp lits ip op budget = .error ⟨.rleOverflow, ip, op, lits.length⟩ := by
  obtain ⟨hfits, -⟩ | ⟨-, herror⟩ := copyOp_cases lits ip op budget
  · omega
  · exact herror

theorem fillOp_of_le {n op budget : Nat} (h : op + n ≤ budget) (v : Byte) (ip : Nat) :
    fillOp n v ip op budget = .ok (ip + 2, List.replicate n v) := by
  obtain ⟨-, hok⟩ | ⟨hover, -⟩ := fillOp_cases n v ip op budget
  · exact hok
  · omega

theorem fillOp_of_lt {n op budget : Nat} (h : budget < op + n) (v : Byte) (ip : Nat) :
    fillOp n v ip op budget = .error ⟨.rleOverflow, ip, op, n⟩ := by
  obtain ⟨hfits, -⟩ | ⟨-, herror⟩ := fillOp_cases n v ip op budget
  · omega
  · exact herror

theorem cutOpcodeFault_of_lt {n op budget : Nat} (h : budget < op + n) (ip : Nat) :
    cutOpcodeFault n ip op budget = ⟨.rleOverflow, ip, op, n⟩ := by
  simp [cutOpcodeFault, overflows, h]

theorem cutOpcodeFault_of_le {n op budget : Nat} (h : op + n ≤ budget) (ip : Nat) :
    cutOpcodeFault n ip op budget = ⟨.rleTruncated, ip, op, n⟩ := by
  simp [cutOpcodeFault, overflows, Nat.not_lt.mpr h]

/-! ### The opcode step -/

theorem decodeStream_copy_cut {c : Byte} (h : c.toNat < 128) {rest : List Byte} (hr : rest.length < opcodeCount c) :
    decodeStream (c :: rest) = .error (.truncated (opcodeCount c)) := by
  simp [decodeStream, h, hr]

theorem decodeStream_fill_cut {c : Byte} (h : 128 ≤ c.toNat) :
    decodeStream [c] = .error (.truncated (opcodeCount c)) := by
  simp [decodeStream, Nat.not_lt.mpr h]

theorem decodeOp_of_cut {inp : List Byte} {ip n : Nat} (h : decodeStream (inp.drop ip) = .error (.truncated n))
    (op budget : Nat) : decodeOp inp ip op budget = .error (cutOpcodeFault n ip op budget) := by
  rw [decodeOp, h]

/-- The overflow check looks at the control byte alone, so it comes first for all that may follow the byte (R121). -/
theorem decodeOp_overflow {inp : List Byte} {ip op budget : Nat} (hip : ip < inp.length)
    (h : budget < op + opcodeCount inp[ip]) :
    decodeOp inp ip op budget = .error ⟨.rleOverflow, ip, op, opcodeCount inp[ip]⟩ := by
  have hin := List.drop_eq_getElem_cons hip
  rcases decodeStream_cases inp[ip] (inp.drop (ip + 1)) with hd | ⟨-, hn, hd⟩ | ⟨-, v, rest, -, hd⟩
  · rw [decodeOp_of_cut (hin ▸ hd), cutOpcodeFault_of_lt h]
  · have hl := List.length_take_of_le hn
    rw [decodeOp_of_decodeStream (hin ▸ hd), opcodeStep, copyOp_of_lt (hl.symm ▸ h), hl]
  · rw [decodeOp_of_decodeStream (hin ▸ hd), opcodeStep, fillOp_of_lt h]

/-- Settles O19: the overflow check first, then the four ways a control byte's operands can stand or be missing. -/
theorem decodeOpFollowsTheControlByte : Obligations.DecodeOpFollowsTheControlByte := by
  intro inp ip op budget hip
  have hin := List.drop_eq_getElem_cons hip
  refine ⟨decodeOp_overflow hip, fun hfits =>
    ⟨fun hc hcut => ?_, fun hc hlits => ?_, fun hc hcut => ?_, fun hc hval => ?_⟩⟩
  · have hd := decodeStream_copy_cut hc (rest := inp.drop (ip + 1)) (by rw [List.length_drop]; omega)
    rw [decodeOp_of_cut (hin ▸ hd), cutOpcodeFault_of_le hfits]
  · rw [decodeOp_copy hin hc (by rw [List.length_drop]; omega) hfits, opcodeSize_of_lt hc, Nat.add_assoc,
      Nat.add_comm 1]
  · have hrest : inp.drop (ip + 1) = [] := List.drop_eq_nil_of_le (by omega)
    rw [hrest] at hin
    rw [decodeOp_of_cut (hin ▸ decodeStream_fill_cut hc), cutOpcodeFault_of_le hfits]
  · rw [List.drop_eq_getElem_cons hval] at hin
    rw [decodeOp_fill hin hc hfits, opcodeSize_of_le hc]

/-! ### An opcode in a running decoder -/

/-- The state after an opcode step of the running decoder `d`: the opcode's bytes appended and ip moved, or the end of the
command in the step's fault (R121, R206). -/
def Decoder.advance (d : Decoder) (r : Except StreamFault (Nat × List Byte)) (s : State) : State :=
  match r with
  | .ok (ip, bytes) => { s with dec := some { d with ip := ip, row := d.row ++ bytes } }
  | .error e => d.fail e s

theorem Decoder.advance_ok (d : Decoder) (ip : Nat) (bytes : List Byte) (s : State) :
    d.advance (.ok (ip, bytes)) s = { s with dec := some { d with ip := ip, row := d.row ++ bytes } } := rfl

theorem Decoder.advance_error (d : Decoder) (e : StreamFault) (s : State) : d.advance (.error e) s = d.fail e s := rfl

theorem runOpcode_inside {s : State} {d : Decoder} (hd : s.dec = some d)
    (f : Nat → Nat → Nat → Except StreamFault (Nat × List Byte)) :
    runOpcode f s = .next (d.advance (f d.ip d.row.length (d.budget s)) s) := by
  obtain ⟨hnone, -⟩ | ⟨d', hd', ⟨ip, bytes, hf, hrun⟩ | ⟨e, hf, hrun⟩⟩ := runOpcode_cases f s
  · simp [hd] at hnone
  all_goals
    obtain rfl : d = d' := Option.some.inj (hd.symm.trans hd')
    rw [hrun, hf]
    rfl

theorem runOpcode_outside {s : State} (hd : s.dec = none) (f : Nat → Nat → Nat → Except StreamFault (Nat × List Byte)) :
    runOpcode f s = .refused .opcodeOutsideDecoder := by
  rw [runOpcode, hd]

/-- A stream opcode's meaning is its opcode step in the running decoder. -/
theorem exec_stream {i : Instr} (h : i.isStream = true) (s : State) : exec i s = runOpcode (opcodeStep i) s := by
  cases i with
  | copy lits => rfl
  | fill n v => rfl
  | pack | unpack | encrow | decrow | encframe | decframe => cases h

theorem exec_stream_inside {i : Instr} (h : i.isStream = true) {s : State} {d : Decoder} (hd : s.dec = some d) :
    exec i s = .next (d.advance (opcodeStep i d.ip d.row.length (d.budget s)) s) := by
  rw [exec_stream h, runOpcode_inside hd]

/-- Fetching the opcode at ip and running it is the opcode step on the decoder's input (R121). -/
theorem Decoder.fetchAndRun_exec {s : State} {d : Decoder} (hd : s.dec = some d) :
    d.fetchAndRun exec s = .next (d.advance (decodeOp (d.input s) d.ip d.row.length (d.budget s)) s) := by
  rw [Decoder.fetchAndRun]
  cases h : decodeStream ((d.input s).drop d.ip) with
  | ok r =>
    obtain ⟨i, rest⟩ := r
    obtain ⟨-, hs, -⟩ := decodeStream_ok h
    rw [decodeOp_of_decodeStream h, ← exec_stream_inside hs hd]
  | error e =>
    rw [decodeOp, h]
    cases e <;> rfl

/-- Settles O20: in a running decoder an opcode that fits advances it; with none running it is refused. -/
theorem streamOpcodesAppendTheirBytes : Obligations.StreamOpcodesAppendTheirBytes := by
  refine ⟨fun s d hd => ⟨fun lits hfits => ?_, fun n v hfits => ?_⟩, fun s lits n v hd => ⟨?_, ?_⟩⟩
  · rw [exec_stream_inside rfl hd, opcodeStep, copyOp_of_le hfits, Decoder.advance_ok]
  · rw [exec_stream_inside rfl hd, opcodeStep, fillOp_of_le hfits, Decoder.advance_ok]
  · rw [exec_stream rfl, runOpcode_outside hd]
  · rw [exec_stream rfl, runOpcode_outside hd]

/-! ### The end of a decoding command in a fault -/

theorem failRow_eq (e : StreamFault) (s : State) :
    failRow e s = { s.raise ⟨e.cause, 0, 0, e.ipos, e.opos, e.val⟩ with
      rpb := Memory.unspecified s.draws
      rowCnt := Config.freeValue 8 (s.draws + 1) 0
      draws := s.draws + 2 } := rfl

theorem failFrame_eq (f : FaultRecord) (s : State) :
    failFrame f s = { s.raise f with
      pln := Memory.unspecified (s.draws + 2)
      rpb := Memory.unspecified s.draws
      cpb := Memory.unspecified (s.draws + 1)
      draws := s.draws + 3 } := rfl

theorem Decoder.fail_row {d : Decoder} (h : d.geom = none) (e : StreamFault) (s : State) :
    d.fail e s = { failRow e s with dec := none } := by
  rw [Decoder.fail, h]

theorem Decoder.fail_frame {d : Decoder} {g : Geometry} (h : d.geom = some g) (e : StreamFault) (s : State) :
    d.fail e s = { failFrame (rowFault g d.rows.length e) s with dec := none } := by
  rw [Decoder.fail, h]
  rfl

/-- An opcode over the budget ends the running command in RLE_OVERFLOW (R121, R201). -/
theorem exec_stream_overflow {s : State} {d : Decoder} {i : Instr} {n : Nat} (hd : s.dec = some d)
    (hi : (∃ lits, i = .copy lits ∧ n = lits.length) ∨ ∃ v, i = .fill n v) (hover : d.budget s < d.row.length + n) :
    exec i s = .next (d.fail ⟨.rleOverflow, d.ip, d.row.length, n⟩ s) := by
  obtain ⟨lits, rfl, rfl⟩ | ⟨v, rfl⟩ := hi
  · rw [exec_stream_inside rfl hd, opcodeStep, copyOp_of_lt hover, Decoder.advance_error]
  · rw [exec_stream_inside rfl hd, opcodeStep, fillOp_of_lt hover, Decoder.advance_error]

/-- Settles O21: the fault is the running command's, and the destination it forgets is that command's. -/
theorem opcodeOverBudgetFaults : Obligations.OpcodeOverBudgetFaults := by
  intro s d i n hi hd hover
  refine ⟨_, exec_stream_overflow hd hi hover, fun hrow => ?_, fun g hframe => ?_⟩
  · rw [Decoder.fail_row hrow, failRow_eq]
    exact ⟨by simp, ⟨s.draws + 1, by omega, rfl⟩, rfl⟩
  · rw [Decoder.fail_frame hframe, failFrame_eq]
    exact ⟨by simp, by simp, by simp, rfl⟩

end Sys2Proof.Machine
end

section
/-! The row decoder's loop, DECROW, and DECROW run opcode by opcode (41_rle_decode.md R124, R127, log entry 4). -/

namespace Sys2Proof.Machine

/-! ### The loop of the row decoder -/

/-- The loop ends when the input is exhausted (R124). -/
theorem rleDecodeFrom_end {inp : List Byte} {ip : Nat} (h : inp.length ≤ ip) (budget fuel : Nat) (out : List Byte) :
    rleDecodeFrom inp budget fuel ip out = .ok out := by
  cases fuel with
  | zero => rfl
  | succ fuel => rw [rleDecodeFrom, if_neg (Nat.not_lt.mpr h)]

theorem rleDecodeFrom_step_error {inp : List Byte} {budget ip : Nat} {out : List Byte} {e : StreamFault}
    (hip : ip < inp.length) (h : decodeOp inp ip out.length budget = .error e) (fuel : Nat) :
    rleDecodeFrom inp budget (fuel + 1) ip out = .error e := by
  rw [rleDecodeFrom, if_pos hip, h]

theorem rleDecodeFrom_step_ok {inp : List Byte} {budget ip ip' : Nat} {out bytes : List Byte}
    (h : decodeOp inp ip out.length budget = .ok (ip', bytes)) (fuel : Nat) :
    rleDecodeFrom inp budget (fuel + 1) ip out = rleDecodeFrom inp budget fuel ip' (out ++ bytes) := by
  rw [rleDecodeFrom, if_pos (decodeOp_ok h).1, h]

/-- An opcode takes at least two bytes, so fuel for the bytes left never runs out, and any two such amounts agree. -/
theorem rleDecodeFrom_fuel {inp : List Byte} {budget fuel fuel' ip : Nat} {out : List Byte}
    (h : inp.length ≤ ip + fuel) (h' : inp.length ≤ ip + fuel') :
    rleDecodeFrom inp budget fuel ip out = rleDecodeFrom inp budget fuel' ip out := by
  induction fuel generalizing fuel' ip out with
  | zero =>
    have hend : inp.length ≤ ip := h
    rw [rleDecodeFrom_end hend, rleDecodeFrom_end hend]
  | succ fuel ih =>
    rcases Nat.lt_or_ge ip inp.length with hip | hend
    · obtain ⟨fuel', rfl⟩ : ∃ k, fuel' = k + 1 := ⟨fuel' - 1, by omega⟩
      cases hop : decodeOp inp ip out.length budget with
      | error e => rw [rleDecodeFrom_step_error hip hop, rleDecodeFrom_step_error hip hop]
      | ok r =>
        obtain ⟨ip', bytes⟩ := r
        obtain ⟨-, hadv, -⟩ := decodeOp_ok hop
        rw [rleDecodeFrom_step_ok hop, rleDecodeFrom_step_ok hop]
        exact ih (by omega) (by omega)
    · rw [rleDecodeFrom_end hend, rleDecodeFrom_end hend]

/-- Settles O26: the loop's three outcomes, with the fuel that is left exchanged for the bytes that are left. -/
theorem rowDecoderLoopFollowsItsRule : Obligations.RowDecoderLoopFollowsItsRule := by
  refine ⟨fun inp budget => rfl, fun inp budget fuel ip out hfuel => ?_⟩
  split
  next hip =>
    obtain ⟨fuel, rfl⟩ : ∃ k, fuel = k + 1 := ⟨fuel - 1, by omega⟩
    split
    next e hop => exact rleDecodeFrom_step_error hip hop fuel
    next ip' bytes hop =>
      obtain ⟨-, hadv, -⟩ := decodeOp_ok hop
      rw [rleDecodeFrom_step_ok hop]
      exact rleDecodeFrom_fuel (by omega) (by omega)
  next hend => exact rleDecodeFrom_end (Nat.not_lt.mp hend) budget fuel out

/-- The row decoder faults in RLE_OVERFLOW or RLE_TRUNCATED and in nothing else (R121). -/
theorem rleDecode_error_cause {inp : List Byte} {budget : Nat} {e : StreamFault}
    (h : rleDecode inp budget = .error e) : e.cause = .rleOverflow ∨ e.cause = .rleTruncated := by
  obtain ⟨hcause, -⟩ := rleDecodeFrom_error (Nat.zero_le budget) h
  exact hcause.imp And.left And.left

/-! ### DECROW -/

/-- The end of a DECROW whose decoder answers `r`: its fault, or RPB, ROW_CNT and STATUS (R127). -/
def endDecrow (r : Except StreamFault (List Byte)) (s : State) : State :=
  match r with
  | .error e => failRow e s
  | .ok out => finishDecrow out s

theorem endDecrow_error (e : StreamFault) (s : State) : endDecrow (.error e) s = failRow e s := rfl

theorem endDecrow_ok (out : List Byte) (s : State) : endDecrow (.ok out) s = finishDecrow out s := rfl

theorem decrowBody_badRowLen {s : State} (h : ¬ s.rowLenLegal = true) :
    decrowBody s = s.raise ⟨.badLength, 0, 0, 0, 0, s.rowLen.toNat⟩ := by
  rw [decrowBody, if_neg h, State.raisePlain]

theorem decrowBody_badCrowLen {s : State} (h : s.rowLenLegal = true) (hc : ¬ s.crowLenLegal = true) :
    decrowBody s = s.raise ⟨.badLength, 0, 0, 0, 0, s.crowLen.toNat⟩ := by
  rw [decrowBody, if_pos h, if_neg hc, State.raisePlain]

theorem decrowBody_legal {s : State} (h : s.rowLenLegal = true) (hc : s.crowLenLegal = true) :
    decrowBody s = endDecrow (rleDecode s.codedRow s.rowLen.toNat) s := by
  rw [decrowBody, if_pos h, if_pos hc]
  rfl

theorem exec_decrow_ready {s : State} (hs : s.status ≠ .failed) : exec .decrow s = .next (decrowBody s) := by
  rw [exec, execDecrow, issueRow_ready hs]

/-- DECROW outside FAILED and with legal lengths is the row decoder on CPB[0..CROW_LEN) with budget ROW_LEN (R127). -/
theorem exec_decrow_legal {s : State} (hs : s.status ≠ .failed) (h1 : 1 ≤ s.rowLen.toNat) (h80 : s.rowLen.toNat ≤ 80)
    (h128 : s.crowLen.toNat ≤ 128) :
    exec .decrow s = .next (endDecrow (rleDecode s.codedRow s.rowLen.toNat) s) := by
  rw [exec_decrow_ready hs, decrowBody_legal (State.rowLenLegal_iff.mpr ⟨h1, h80⟩) (State.crowLenLegal_iff.mpr h128)]

/-- Settles O33: the branches of DECROW's body; a row that is decoded is at most ROW_LEN, so ROW_CNT holds its length. -/
theorem decrowFollowsItsRule : Obligations.DecrowFollowsItsRule := by
  intro s hs
  refine ⟨fun hrow => ?_, fun h1 h80 hcrow => ?_, fun h1 h80 h128 => ⟨fun e he => ?_, fun r hr => ?_⟩⟩
  · have hbad : ¬ s.rowLenLegal = true := by rw [State.rowLenLegal_iff]; omega
    rw [exec_decrow_ready hs, decrowBody_badRowLen hbad]
  · have hbad : ¬ s.crowLenLegal = true := by rw [State.crowLenLegal_iff]; omega
    rw [exec_decrow_ready hs, decrowBody_badCrowLen (State.rowLenLegal_iff.mpr ⟨h1, h80⟩) hbad]
  · rw [exec_decrow_legal hs h1 h80 h128, State.codedRow, he, endDecrow_error, failRow_eq]
    exact ⟨_, rfl, rleDecode_error_cause he, by simp, ⟨s.draws + 1, by omega, rfl⟩, rfl⟩
  · have hlen := length_rleDecode_le hr
    rw [exec_decrow_legal hs h1 h80 h128, State.codedRow, hr, endDecrow_ok]
    exact ⟨_, rfl, Memory.holds_writeRange _ _, Nat.mod_eq_of_lt (by omega), hlen, rfl⟩

/-! ### DECROW opcode by opcode -/

theorem core_run_succ {s t : State} (h : step s = .next t) (k : Nat) :
    Sys2Proof.core.run (k + 1) s = Sys2Proof.core.run k t := by
  have hstep : Sys2Proof.core.step s = .next t := h
  simp only [Host.Core.run, hstep]

theorem core_run_one {s t : State} (h : step s = .next t) : Sys2Proof.core.run 1 s = .next t := core_run_succ h 0

/-- The inside of a DECROW with stream pointer `ip` and the bytes `out` already produced (R124, log entry 4). -/
def State.insideDecrow (s : State) (ip : Nat) (out : List Byte) : State :=
  { s with dec := some { geom := none, ip := ip, row := out, rows := [] } }

theorem State.beginDecrow_eq (s : State) : s.beginDecrow = s.insideDecrow 0 [] := rfl

theorem State.clearDec_eq {s : State} (h : s.dec = none) : { s with dec := none } = s := by
  rw [← h]

/-- A DECROW ends the same way from its inside, when the decoder is then dropped, as from the state it was issued in. -/
theorem endDecrow_insideDecrow {s : State} (hdec : s.dec = none) (ip : Nat) (out : List Byte)
    (r : Except StreamFault (List Byte)) :
    { endDecrow r (s.insideDecrow ip out) with dec := none } = endDecrow r s := by
  cases r with
  | error e => exact State.clearDec_eq (s := failRow e s) hdec
  | ok row => exact State.clearDec_eq (s := finishDecrow row s) hdec

/-- While input is left, a step inside DECROW is the opcode step at ip (R121, R124). -/
theorem step_insideDecrow {s : State} {ip : Nat} (hip : ip < s.codedRow.length) (out : List Byte) :
    step (s.insideDecrow ip out) =
      .next (Decoder.advance ⟨none, ip, out, []⟩ (decodeOp s.codedRow ip out.length s.rowLen.toNat)
        (s.insideDecrow ip out)) := by
  rw [step_inside rfl]
  exact (if_pos hip).trans (Decoder.fetchAndRun_exec rfl)

theorem step_insideDecrow_ok {s : State} {ip ip' : Nat} {out bytes : List Byte}
    (h : decodeOp s.codedRow ip out.length s.rowLen.toNat = .ok (ip', bytes)) :
    step (s.insideDecrow ip out) = .next (s.insideDecrow ip' (out ++ bytes)) := by
  rw [step_insideDecrow (decodeOp_ok h).1, h]
  rfl

theorem step_insideDecrow_error {s : State} {ip : Nat} {out : List Byte} {e : StreamFault} (hdec : s.dec = none)
    (hip : ip < s.codedRow.length) (h : decodeOp s.codedRow ip out.length s.rowLen.toNat = .error e) :
    step (s.insideDecrow ip out) = .next (endDecrow (.error e) s) := by
  rw [step_insideDecrow hip, h, Decoder.advance_error, Decoder.fail_row rfl, ← endDecrow_insideDecrow hdec ip out]
  rfl

/-- At the end of the input a step ends the command (R124, R127). -/
theorem step_insideDecrow_end {s : State} {ip : Nat} (hdec : s.dec = none) (hend : s.codedRow.length ≤ ip)
    (out : List Byte) : step (s.insideDecrow ip out) = .next (endDecrow (.ok out) s) := by
  rw [step_inside rfl, ← endDecrow_insideDecrow hdec ip out]
  exact if_neg (Nat.not_lt.mpr hend)

/-- From any point inside DECROW the steps end as the row decoder's loop from that point does: one step for each of its
iterations, and one for the end of the command. -/
theorem exists_run_insideDecrow {s : State} (hdec : s.dec = none) {fuel ip : Nat}
    (hfuel : s.codedRow.length ≤ ip + fuel) (out : List Byte) :
    ∃ k, Sys2Proof.core.run k (s.insideDecrow ip out) =
      .next (endDecrow (rleDecodeFrom s.codedRow s.rowLen.toNat fuel ip out) s) := by
  induction fuel generalizing ip out with
  | zero => exact ⟨1, core_run_one (step_insideDecrow_end hdec hfuel out)⟩
  | succ fuel ih =>
    rcases Nat.lt_or_ge ip s.codedRow.length with hip | hend
    · cases hop : decodeOp s.codedRow ip out.length s.rowLen.toNat with
      | error e =>
        rw [rleDecodeFrom_step_error hip hop]
        exact ⟨1, core_run_one (step_insideDecrow_error hdec hip hop)⟩
      | ok r =>
        obtain ⟨ip', bytes⟩ := r
        obtain ⟨-, hadv, -⟩ := decodeOp_ok hop
        obtain ⟨k, hk⟩ := ih (ip := ip') (by omega) (out ++ bytes)
        rw [rleDecodeFrom_step_ok hop]
        exact ⟨k + 1, (core_run_succ (step_insideDecrow_ok hop) k).trans hk⟩
    · rw [rleDecodeFrom_end hend]
      exact ⟨1, core_run_one (step_insideDecrow_end hdec hend out)⟩

/-- Settles O35: the simulation of the row decoder's loop by the steps inside DECROW, from the beginning of the input. -/
theorem decrowIsItsOpcodesOneByOne : Obligations.DecrowIsItsOpcodesOneByOne := by
  intro s hdec hs h1 h80 h128
  rw [exec_decrow_legal hs h1 h80 h128, State.beginDecrow_eq, rleDecode]
  exact exists_run_insideDecrow hdec (Nat.le_add_left ..) []

end Sys2Proof.Machine
end

section
/-! The encoder's functions: runs, literal chunks, fills and the scan (42_rle_encode.md R141 to R146). -/

namespace Sys2Proof.Machine

/-! ### Runs -/

theorem replicate_leadingCount_append_drop (v : Byte) (l : List Byte) :
    List.replicate (leadingCount v l) v ++ l.drop (leadingCount v l) = l := by
  induction l with
  | nil => rfl
  | cons b t ih =>
    by_cases hb : b = v
    · subst hb
      simpa [leadingCount, List.replicate_succ] using ih
    · simp [leadingCount, hb]

theorem head?_drop_leadingCount_ne (v : Byte) (l : List Byte) : (l.drop (leadingCount v l)).head? ≠ some v := by
  induction l with
  | nil => simp
  | cons b t ih =>
    by_cases hb : b = v
    · simpa [leadingCount, hb] using ih
    · simp [leadingCount, hb]

theorem leadingCount_of_head?_ne {v : Byte} {l : List Byte} (h : l.head? ≠ some v) : leadingCount v l = 0 := by
  cases l with
  | nil => rfl
  | cons b t => simpa [leadingCount] using h

theorem leadingCount_replicate_append {v : Byte} {rest : List Byte} (h : rest.head? ≠ some v) (n : Nat) :
    leadingCount v (List.replicate n v ++ rest) = n := by
  induction n with
  | zero => exact leadingCount_of_head?_ne h
  | succ n ih => simp [List.replicate_succ, leadingCount, ih]

/-- A list is its first run followed by what stands after it (R141). -/
theorem replicate_runLen_append_drop (b : Byte) (t : List Byte) :
    List.replicate (runLen (b :: t)) b ++ (b :: t).drop (runLen (b :: t)) = b :: t :=
  congrArg (b :: ·) (replicate_leadingCount_append_drop b t)

/-- The first run is maximal: what stands after it begins with another byte (R141). -/
theorem head?_drop_runLen_ne (b : Byte) (t : List Byte) : ((b :: t).drop (runLen (b :: t))).head? ≠ some b :=
  head?_drop_leadingCount_ne b t

theorem runLen_pos (b : Byte) (t : List Byte) : 1 ≤ runLen (b :: t) := Nat.le_add_left ..

theorem runLen_replicate_append {b : Byte} {rest : List Byte} (h : rest.head? ≠ some b) {n : Nat} (hn : 0 < n) :
    runLen (List.replicate n b ++ rest) = n := by
  cases n with
  | zero => cases hn
  | succ n => exact congrArg (· + 1) (leadingCount_replicate_append h n)

/-- A non-empty list is a maximal run and what stands after it. -/
theorem exists_first_run (b : Byte) (t : List Byte) :
    ∃ n rest, 1 ≤ n ∧ b :: t = List.replicate n b ++ rest ∧ rest.head? ≠ some b :=
  ⟨_, _, runLen_pos b t, (replicate_runLen_append_drop b t).symm, head?_drop_runLen_ne b t⟩

/-- Settles O22, by the split of a list into its first run and the rest. -/
theorem runLenIsTheMaximalRun : Obligations.RunLenIsTheMaximalRun := by
  intro b t
  refine ⟨runLen_pos b t, runLen_le_length _, ?_, fun h heq => head?_drop_runLen_ne b t ?_⟩
  · have htake := congrArg (List.take (runLen (b :: t))) (replicate_runLen_append_drop b t)
    rw [List.take_left' List.length_replicate] at htake
    exact htake.symm
  · rw [List.head?_drop, List.getElem?_eq_getElem h, heq]

/-! ### Literals -/

theorem flushChunks_nil (fuel : Nat) : flushChunks fuel [] = [] := by
  cases fuel <;> rfl

theorem flushLit_nil : flushLit [] = [] := rfl

/-- A chunk takes at least one byte, so fuel for the bytes left never runs out, and any two such amounts agree. -/
theorem flushChunks_fuel {fuel fuel' : Nat} {l : List Byte} (h : l.length ≤ fuel) (h' : l.length ≤ fuel') :
    flushChunks fuel l = flushChunks fuel' l := by
  induction fuel generalizing fuel' l with
  | zero => rw [List.length_eq_zero_iff.mp (Nat.le_zero.mp h), flushChunks_nil, flushChunks_nil]
  | succ fuel ih =>
    cases l with
    | nil => rw [flushChunks_nil, flushChunks_nil]
    | cons b t =>
      rw [List.length_cons] at h h'
      obtain ⟨fuel', rfl⟩ : ∃ k, fuel' = k + 1 := ⟨fuel' - 1, by omega⟩
      rw [flushChunks, flushChunks]
      congr 1
      exact ih (by simp only [List.length_drop, List.length_cons]; omega)
        (by simp only [List.length_drop, List.length_cons]; omega)

/-- A COPY of the first 128 literals, or of all when fewer are left, and the rest after it (R144). -/
theorem flushLit_of_ne_nil {l : List Byte} (h : l ≠ []) :
    flushLit l = .copy (l.take 128) :: flushLit (l.drop 128) := by
  obtain ⟨b, t, rfl⟩ := List.exists_cons_of_ne_nil h
  have hrest : flushChunks t.length ((b :: t).drop 128) = flushLit ((b :: t).drop 128) :=
    flushChunks_fuel (by simp only [List.length_drop, List.length_cons]; omega) le_rfl
  rw [← hrest, List.take_eq_take_min, List.drop_eq_drop_min]
  rfl

/-- Induction over the chunks of `flushLit`. -/
theorem literal_induction {motive : List Byte → Prop} (nil : motive [])
    (chunk : ∀ l, l ≠ [] → motive (l.drop 128) → motive l) (l : List Byte) : motive l := by
  induction hn : l.length using Nat.strong_induction_on generalizing l with
  | _ n ih =>
    by_cases hl : l = []
    · exact hl ▸ nil
    · have hpos := List.length_pos_iff.mpr hl
      exact chunk l hl (ih (l.drop 128).length (by rw [List.length_drop]; omega) _ rfl)

/-- The number of COPYs (R144). -/
theorem length_flushLit (l : List Byte) : (flushLit l).length = (l.length + 127) / 128 := by
  induction l using literal_induction with
  | nil => rfl
  | chunk l hl ih =>
    have hpos := List.length_pos_iff.mpr hl
    rw [flushLit_of_ne_nil hl, List.length_cons, ih, List.length_drop]
    omega

/-- Every opcode of a flush is a COPY of 1 to 128 neighbouring literals (R144). -/
theorem exists_copy_of_mem_flushLit {l : List Byte} {i : Instr} (h : i ∈ flushLit l) :
    ∃ lits, i = .copy lits ∧ lits <:+: l ∧ 1 ≤ lits.length ∧ lits.length ≤ 128 := by
  induction l using literal_induction with
  | nil => cases h
  | chunk l hl ih =>
    have hpos := List.length_pos_iff.mpr hl
    rw [flushLit_of_ne_nil hl, List.mem_cons] at h
    rcases h with rfl | h
    · exact ⟨_, rfl, (List.take_prefix 128 l).isInfix, by rw [List.length_take]; omega, List.length_take_le ..⟩
    · obtain ⟨lits, hi, hinfix, hlen⟩ := ih h
      exact ⟨lits, hi, hinfix.trans (List.drop_suffix 128 l).isInfix, hlen⟩

/-- Settles O23, by the equation of a flush and the count of its chunks. -/
theorem flushLitCutsGreedilyAt128 : Obligations.FlushLitCutsGreedilyAt128 := by
  refine ⟨flushLit_nil, fun l hl => ?_, length_flushLit⟩
  rw [← List.take_eq_take_min, ← List.drop_eq_drop_min]
  exact flushLit_of_ne_nil hl

/-! ### Fills -/

theorem emitFill_zero (v : Byte) : emitFill v 0 = [] := rfl

theorem fillChunks_zero (v : Byte) (fuel : Nat) : fillChunks v fuel 0 = [] := by
  cases fuel <;> rfl

theorem fillChunks_succ (v : Byte) (fuel : Nat) {r : Nat} (h : 0 < r) :
    fillChunks v (fuel + 1) r = .fill (fillChunk r) v :: fillChunks v fuel (r - fillChunk r) :=
  if_neg (Nat.ne_of_gt h)

theorem fillChunk_pos {r : Nat} (h : 0 < r) : 0 < fillChunk r := by
  unfold fillChunk
  split_ifs <;> omega

theorem fillChunk_le_129 (r : Nat) : fillChunk r ≤ 129 := by
  unfold fillChunk
  split_ifs <;> omega

/-- A FILL that does not end its run is a full one (R145). -/
theorem fillChunk_of_rest {r : Nat} (h : 0 < r - fillChunk r) : fillChunk r = 129 ∨ fillChunk r = 128 := by
  unfold fillChunk at h ⊢
  split_ifs at h ⊢ <;> omega

/-- A FILL takes at least one byte, so fuel for the bytes left never runs out, and any two such amounts agree. -/
theorem fillChunks_fuel {v : Byte} {fuel fuel' r : Nat} (h : r ≤ fuel) (h' : r ≤ fuel') :
    fillChunks v fuel r = fillChunks v fuel' r := by
  induction fuel generalizing fuel' r with
  | zero => rw [Nat.le_zero.mp h, fillChunks_zero, fillChunks_zero]
  | succ fuel ih =>
    rcases Nat.eq_zero_or_pos r with rfl | hr
    · rw [fillChunks_zero, fillChunks_zero]
    · have hchunk := fillChunk_pos hr
      obtain ⟨fuel', rfl⟩ : ∃ k, fuel' = k + 1 := ⟨fuel' - 1, by omega⟩
      rw [fillChunks_succ v _ hr, fillChunks_succ v _ hr, ih (fuel' := fuel') (by omega) (by omega)]

/-- A FILL of the next chunk, and the FILLs of what remains of the run (R145). -/
theorem emitFill_of_pos (v : Byte) {r : Nat} (h : 0 < r) :
    emitFill v r = .fill (fillChunk r) v :: emitFill v (r - fillChunk r) := by
  have hchunk := fillChunk_pos h
  obtain ⟨n, rfl⟩ : ∃ n, r = n + 1 := ⟨r - 1, by omega⟩
  rw [emitFill, fillChunks_succ v n h, fillChunks_fuel (by omega) le_rfl]
  rfl

/-- Induction over the FILLs of a run of 2 or more; what remains of such a run is never 1. -/
theorem fill_induction {motive : (r : Nat) → r ≠ 1 → Prop} (zero : motive 0 Nat.zero_ne_one)
    (chunk : ∀ r, ∀ hr : 2 ≤ r, motive (r - fillChunk r) (fillChunk_bounds hr).2.2 → motive r (Nat.ne_of_gt hr))
    (r : Nat) (hr : r ≠ 1) : motive r hr := by
  induction r using Nat.strong_induction_on with
  | _ r ih =>
    rcases Nat.eq_zero_or_pos r with rfl | hpos
    · exact zero
    · obtain ⟨hge, -, -⟩ := fillChunk_bounds (r := r) (by omega)
      exact chunk r (by omega) (ih _ (by omega) _)

/-- The lengths of the FILLs of a run (R145). -/
theorem exists_emitFill_eq_map (v : Byte) {r : Nat} (hr : r ≠ 1) :
    ∃ ks : List Nat, emitFill v r = ks.map (fun k => .fill k v) ∧ ks.sum = r ∧ ∀ k ∈ ks, 2 ≤ k ∧ k ≤ 129 := by
  induction r, hr using fill_induction with
  | zero => exact ⟨[], rfl, rfl, by simp⟩
  | chunk r hr ih =>
    obtain ⟨ks, hks, hsum, hbounds⟩ := ih
    obtain ⟨hge, hle, -⟩ := fillChunk_bounds hr
    refine ⟨fillChunk r :: ks, ?_, ?_, List.forall_mem_cons.mpr ⟨⟨hge, fillChunk_le_129 r⟩, hbounds⟩⟩
    · rw [emitFill_of_pos v (by omega), hks, List.map_cons]
    · rw [List.sum_cons, hsum, Nat.add_sub_cancel' hle]

theorem exists_fill_of_mem_emitFill {v : Byte} {r : Nat} {i : Instr} (hr : r ≠ 1) (h : i ∈ emitFill v r) :
    ∃ k, i = .fill k v ∧ 2 ≤ k ∧ k ≤ 129 := by
  obtain ⟨ks, hks, -, hbounds⟩ := exists_emitFill_eq_map v hr
  rw [hks, List.mem_map] at h
  obtain ⟨k, hk, rfl⟩ := h
  exact ⟨k, rfl, hbounds k hk⟩

/-- Settles O24, by the equation of a run's FILLs and their lengths. -/
theorem emitFillSplits130As128And2 : Obligations.EmitFillSplits130As128And2 :=
  ⟨fun v _ hr => emitFill_of_pos v hr, emitFill_zero, fun v _ hr => exists_emitFill_eq_map v (by omega)⟩

/-! ### The scan -/

theorem encodeScan_nil (fuel : Nat) (pend : List Byte) : encodeScan fuel pend [] = flushLit pend := by
  cases fuel <;> rfl

theorem encodeScan_succ_run {b : Byte} {t : List Byte} (h : 2 ≤ runLen (b :: t)) (fuel : Nat) (pend : List Byte) :
    encodeScan (fuel + 1) pend (b :: t) = flushLit pend ++ emitFill b (runLen (b :: t)) ++
      encodeScan fuel [] ((b :: t).drop (runLen (b :: t))) :=
  if_pos h

theorem encodeScan_succ_single {b : Byte} {t : List Byte} (h : runLen (b :: t) < 2) (fuel : Nat) (pend : List Byte) :
    encodeScan (fuel + 1) pend (b :: t) = encodeScan fuel (pend ++ [b]) t :=
  if_neg (Nat.not_le.mpr h)

/-- The scan takes at least one byte, so fuel for the bytes left never runs out, and any two such amounts agree. -/
theorem encodeScan_fuel {fuel fuel' : Nat} {pend l : List Byte} (h : l.length ≤ fuel) (h' : l.length ≤ fuel') :
    encodeScan fuel pend l = encodeScan fuel' pend l := by
  induction fuel generalizing fuel' pend l with
  | zero => rw [List.length_eq_zero_iff.mp (Nat.le_zero.mp h), encodeScan_nil, encodeScan_nil]
  | succ fuel ih =>
    cases l with
    | nil => rw [encodeScan_nil, encodeScan_nil]
    | cons b t =>
      rw [List.length_cons] at h h'
      obtain ⟨fuel', rfl⟩ : ∃ k, fuel' = k + 1 := ⟨fuel' - 1, by omega⟩
      rcases Nat.lt_or_ge (runLen (b :: t)) 2 with hone | hrun
      · rw [encodeScan_succ_single hone, encodeScan_succ_single hone, ih (fuel' := fuel') (by omega) (by omega)]
      · have hdrop : ((b :: t).drop (runLen (b :: t))).length ≤ t.length := by
          rw [List.length_drop, List.length_cons]
          omega
        rw [encodeScan_succ_run hrun, encodeScan_succ_run hrun, ih (fuel' := fuel') (by omega) (by omega)]

/-- With any fuel for the bytes left: at a run the scan flushes the literals, emits the run and starts afresh after
it. -/
theorem encodeScan_cons_run {b : Byte} {t : List Byte} {fuel : Nat} (hfuel : t.length < fuel)
    (hrun : 2 ≤ runLen (b :: t)) (pend : List Byte) :
    encodeScan fuel pend (b :: t) = flushLit pend ++ emitFill b (runLen (b :: t)) ++
      rleProgram ((b :: t).drop (runLen (b :: t))) := by
  obtain ⟨fuel, rfl⟩ : ∃ k, fuel = k + 1 := ⟨fuel - 1, by omega⟩
  have hdrop : ((b :: t).drop (runLen (b :: t))).length ≤ fuel := by
    rw [List.length_drop, List.length_cons]
    omega
  rw [encodeScan_succ_run hrun, encodeScan_fuel hdrop le_rfl, rleProgram]

theorem encodeScan_cons_single {b : Byte} {t : List Byte} {fuel : Nat} (hfuel : t.length < fuel)
    (hone : runLen (b :: t) < 2) (pend : List Byte) :
    encodeScan fuel pend (b :: t) = encodeScan t.length (pend ++ [b]) t := by
  obtain ⟨fuel, rfl⟩ : ∃ k, fuel = k + 1 := ⟨fuel - 1, by omega⟩
  rw [encodeScan_succ_single hone, encodeScan_fuel (Nat.le_of_lt_succ hfuel) le_rfl]

/-- Settles O25: the branches of the scan, with the fuel that is left exchanged for the bytes that are left. -/
theorem encoderScanFollowsItsRule : Obligations.EncoderScanFollowsItsRule :=
  ⟨fun _ => rfl, encodeScan_nil, fun _ pend _ _ hfuel =>
    ⟨fun hrun => encodeScan_cons_run hfuel hrun pend, fun hone => encodeScan_cons_single hfuel hone pend⟩⟩

/-- At a run of 2 or more the literals are flushed, the run is emitted, and the rest is encoded on its own (R142). -/
theorem encodeScan_run {b : Byte} {n fuel : Nat} {rest : List Byte} (hn : 2 ≤ n) (hrest : rest.head? ≠ some b)
    (hfuel : n + rest.length ≤ fuel) (pend : List Byte) :
    encodeScan fuel pend (List.replicate n b ++ rest) = flushLit pend ++ emitFill b n ++ rleProgram rest := by
  have hlen := runLen_replicate_append hrest (Nat.zero_lt_of_lt hn)
  obtain ⟨n, rfl⟩ : ∃ k, n = k + 1 := ⟨n - 1, by omega⟩
  rw [List.replicate_succ, List.cons_append] at hlen ⊢
  have hleft : (List.replicate n b ++ rest).length < fuel := by
    rw [List.length_append, List.length_replicate]
    omega
  rw [encodeScan_cons_run hleft (by omega), hlen, List.drop_succ_cons, List.drop_left' List.length_replicate]

/-- A byte that its successor differs from joins the literals (R142). -/
theorem encodeScan_single {b : Byte} {t : List Byte} {fuel : Nat} (ht : t.head? ≠ some b) (hfuel : t.length < fuel)
    (pend : List Byte) : encodeScan fuel pend (b :: t) = encodeScan t.length (pend ++ [b]) t := by
  have hone : runLen (b :: t) < 2 := (runLen_replicate_append (n := 1) ht Nat.one_pos).trans_lt (by decide)
  exact encodeScan_cons_single hfuel hone pend

/-- The opcodes `prog` that the scan emits for `l` with pending literals `pend`, by the cases of its rule (R142). -/
inductive Scan : (pend l : List Byte) → (prog : List Instr) → Prop
  | done (pend : List Byte) : Scan pend [] (flushLit pend)
  | run {pend rest : List Byte} {prog : List Instr} {b : Byte} {n : Nat} (hn : 2 ≤ n) (hrest : rest.head? ≠ some b)
      (h : Scan [] rest prog) : Scan pend (List.replicate n b ++ rest) (flushLit pend ++ emitFill b n ++ prog)
  | single {pend t : List Byte} {prog : List Instr} {b : Byte} (ht : t.head? ≠ some b)
      (h : Scan (pend ++ [b]) t prog) : Scan pend (b :: t) prog

/-- What `encodeScan` emits is a scan. -/
theorem scan_encodeScan (pend l : List Byte) : Scan pend l (encodeScan l.length pend l) := by
  induction hlen : l.length using Nat.strong_induction_on generalizing pend l with
  | _ len ih =>
    subst hlen
    cases l with
    | nil => exact .done pend
    | cons b t =>
      obtain ⟨n, rest, hn, hl, hrest⟩ := exists_first_run b t
      have hlen := congrArg List.length hl
      rw [List.length_append, List.length_replicate] at hlen
      rcases hn.lt_or_eq with hrun | rfl
      · rw [hl, encodeScan_run hrun hrest (by rw [List.length_append, List.length_replicate])]
        exact .run hrun hrest (ih rest.length (by omega) [] rest rfl)
      · obtain rfl : t = rest := (List.cons.inj hl).2
        rw [List.length_cons, encodeScan_single hrest (Nat.lt_add_one _)]
        exact .single hrest (ih t.length (Nat.lt_succ_self _) _ t rfl)

theorem scan_rleProgram (s : List Byte) : Scan [] s (rleProgram s) := scan_encodeScan [] s

end Sys2Proof.Machine
end

section
/-! Decoding the encoder's output (41_rle_decode.md R121 to R124, 42_rle_encode.md R147). -/

namespace Sys2Proof.Machine

/-! ### What an opcode produces -/

/-- The bytes a stream opcode appends to the row (R122, R123). -/
def opcodeOutput : Instr → List Byte
  | .copy lits => lits
  | .fill n v => List.replicate n v
  | .pack | .unpack | .encrow | .decrow | .encframe | .decframe => []

@[simp] theorem opcodeOutput_copy (lits : List Byte) : opcodeOutput (.copy lits) = lits := rfl

@[simp] theorem opcodeOutput_fill (n : Nat) (v : Byte) : opcodeOutput (.fill n v) = List.replicate n v := rfl

/-- The bytes a stream program produces, from its first opcode to its last (R91, R124). -/
def programOutput (p : List Instr) : List Byte := p.flatMap opcodeOutput

@[simp] theorem programOutput_nil : programOutput [] = [] := rfl

@[simp] theorem programOutput_cons (i : Instr) (p : List Instr) :
    programOutput (i :: p) = opcodeOutput i ++ programOutput p := rfl

@[simp] theorem programOutput_append (p q : List Instr) :
    programOutput (p ++ q) = programOutput p ++ programOutput q :=
  List.flatMap_append

/-- An opcode that may stand in a stream: COPY or FILL, with a legal length (R86, R90). -/
def legalOpcode (i : Instr) : Prop := i.wf = true ∧ i.isStream = true

theorem legalOpcode_copy_iff {lits : List Byte} :
    legalOpcode (.copy lits) ↔ 1 ≤ lits.length ∧ lits.length ≤ 128 :=
  (and_iff_left rfl).trans wf_copy_iff

theorem legalOpcode_fill_iff {n : Nat} {v : Byte} : legalOpcode (.fill n v) ↔ 2 ≤ n ∧ n ≤ 129 :=
  (and_iff_left rfl).trans wf_fill_iff

theorem opcodeOutput_ne_nil {i : Instr} (h : legalOpcode i) : opcodeOutput i ≠ [] := by
  obtain ⟨hwf, hs⟩ := h
  cases i with
  | copy lits => exact List.ne_nil_of_length_pos (wf_copy_iff.mp hwf).1
  | fill n v =>
    obtain ⟨hge, -⟩ := wf_fill_iff.mp hwf
    exact List.ne_nil_of_length_pos (by rw [opcodeOutput_fill, List.length_replicate]; omega)
  | pack | unpack | encrow | decrow | encframe | decframe => cases hs

/-- A legal opcode takes at least two bytes of the stream (R84). -/
theorem two_le_length_encode {i : Instr} (h : legalOpcode i) : 2 ≤ (encode i).length := by
  obtain ⟨hwf, hs⟩ := h
  cases i with
  | copy lits => exact Nat.succ_le_succ (wf_copy_iff.mp hwf).1
  | fill n v => exact le_rfl
  | pack | unpack | encrow | decrow | encframe | decframe => cases hs

/-! ### Decoding a program -/

theorem opcodeStep_of_le {i : Instr} (hs : i.isStream = true) {op budget : Nat}
    (h : op + (opcodeOutput i).length ≤ budget) (ip : Nat) :
    opcodeStep i ip op budget = .ok (ip + (encode i).length, opcodeOutput i) := by
  cases i with
  | copy lits =>
    rw [length_encode_copy, Nat.add_comm lits.length, ← Nat.add_assoc]
    exact copyOp_of_le h ip
  | fill n v =>
    rw [opcodeOutput_fill, List.length_replicate] at h
    exact fillOp_of_le h v ip
  | pack | unpack | encrow | decrow | encframe | decframe => cases hs

theorem opcodeStep_of_lt {i : Instr} (hs : i.isStream = true) {op budget : Nat}
    (h : budget < op + (opcodeOutput i).length) (ip : Nat) :
    opcodeStep i ip op budget = .error ⟨.rleOverflow, ip, op, (opcodeOutput i).length⟩ := by
  cases i with
  | copy lits => exact copyOp_of_lt h ip
  | fill n v =>
    rw [opcodeOutput_fill, List.length_replicate] at h ⊢
    exact fillOp_of_lt h v ip
  | pack | unpack | encrow | decrow | encframe | decframe => cases hs

section
variable {inp rest : List Byte} {ip op budget : Nat} {i : Instr}

theorem decodeOp_encode (hi : legalOpcode i) (hin : inp.drop ip = encode i ++ rest) (op budget : Nat) :
    decodeOp inp ip op budget = opcodeStep i ip op budget :=
  decodeOp_of_decodeStream (hin ▸ decodeStream_encode_append hi.2 hi.1 rest) op budget

/-- Moving the pointer past an opcode leaves what stands behind it. -/
theorem drop_add_length_encode (hin : inp.drop ip = encode i ++ rest) :
    inp.drop (ip + (encode i).length) = rest := by
  rw [← List.drop_drop, hin, List.drop_left]

theorem lt_length_of_drop_eq_encode (hi : legalOpcode i) (hin : inp.drop ip = encode i ++ rest) :
    ip < inp.length := by
  have hlen := congrArg List.length hin
  have hsize := two_le_length_encode hi
  rw [List.length_drop, List.length_append] at hlen
  omega

end

/-- Within the budget the row decoder produces what the program at its pointer produces (R124). -/
theorem rleDecodeFrom_assemble {inp : List Byte} {budget fuel ip : Nat} {out : List Byte} {p : List Instr}
    (hp : ∀ i ∈ p, legalOpcode i) (hin : inp.drop ip = assemble p) (hfuel : inp.length ≤ ip + fuel)
    (hfits : out.length + (programOutput p).length ≤ budget) :
    rleDecodeFrom inp budget fuel ip out = .ok (out ++ programOutput p) := by
  induction p generalizing ip fuel out with
  | nil => rw [rleDecodeFrom_end (List.drop_eq_nil_iff.mp hin), programOutput_nil, List.append_nil]
  | cons i p ih =>
    obtain ⟨hi, hp⟩ := List.forall_mem_cons.mp hp
    have hip := lt_length_of_drop_eq_encode hi hin
    rw [programOutput_cons, List.length_append] at hfits
    have hop := decodeOp_encode hi hin out.length budget
    rw [opcodeStep_of_le hi.2 (by omega)] at hop
    obtain ⟨fuel, rfl⟩ : ∃ k, fuel = k + 1 := ⟨fuel - 1, by omega⟩
    have hsize := two_le_length_encode hi
    rw [rleDecodeFrom_step_ok hop, ih hp (drop_add_length_encode hin) (by omega)
      (by rw [List.length_append]; omega), programOutput_cons, List.append_assoc]

/-- Over the budget the row decoder stops at the first opcode that does not fit (R121, R201). -/
theorem rleDecodeFrom_assemble_overflow {inp : List Byte} {budget fuel ip : Nat} {out : List Byte} {p : List Instr}
    (hp : ∀ i ∈ p, legalOpcode i) (hin : inp.drop ip = assemble p) (hfuel : inp.length ≤ ip + fuel)
    (hout : out.length ≤ budget) (hover : budget < out.length + (programOutput p).length) :
    ∃ e, rleDecodeFrom inp budget fuel ip out = .error e ∧ e.cause = .rleOverflow := by
  induction p generalizing ip fuel out with
  | nil => exact absurd hover (Nat.not_lt.mpr hout)
  | cons i p ih =>
    obtain ⟨hi, hp⟩ := List.forall_mem_cons.mp hp
    have hip := lt_length_of_drop_eq_encode hi hin
    rw [programOutput_cons, List.length_append] at hover
    have hop := decodeOp_encode hi hin out.length budget
    obtain ⟨fuel, rfl⟩ : ∃ k, fuel = k + 1 := ⟨fuel - 1, by omega⟩
    rcases Nat.lt_or_ge budget (out.length + (opcodeOutput i).length) with hlt | hle
    · rw [opcodeStep_of_lt hi.2 hlt] at hop
      exact ⟨_, rleDecodeFrom_step_error hip hop fuel, rfl⟩
    · rw [opcodeStep_of_le hi.2 hle] at hop
      have hsize := two_le_length_encode hi
      rw [rleDecodeFrom_step_ok hop]
      exact ih hp (drop_add_length_encode hin) (by omega) (by rw [List.length_append]; omega)
        (by rw [List.length_append]; omega)

/-! ### The encoder's program -/

theorem legalOpcode_of_mem_flushLit {l : List Byte} {i : Instr} (h : i ∈ flushLit l) : legalOpcode i := by
  obtain ⟨lits, rfl, -, hlen⟩ := exists_copy_of_mem_flushLit h
  exact legalOpcode_copy_iff.mpr hlen

theorem legalOpcode_of_mem_emitFill {v : Byte} {r : Nat} {i : Instr} (hr : r ≠ 1) (h : i ∈ emitFill v r) :
    legalOpcode i := by
  obtain ⟨k, rfl, hk⟩ := exists_fill_of_mem_emitFill hr h
  exact legalOpcode_fill_iff.mpr hk

/-- Every opcode the scan emits is legal (R151). -/
theorem Scan.forall_legalOpcode {pend l : List Byte} {p : List Instr} (h : Scan pend l p) :
    ∀ i ∈ p, legalOpcode i := by
  induction h with
  | done pend => exact fun i => legalOpcode_of_mem_flushLit
  | run hn hrest _ ih =>
    intro i hi
    rw [List.mem_append, List.mem_append] at hi
    rcases hi with (hi | hi) | hi
    · exact legalOpcode_of_mem_flushLit hi
    · exact legalOpcode_of_mem_emitFill (Nat.ne_of_gt hn) hi
    · exact ih i hi
  | single _ _ ih => exact ih

theorem programOutput_flushLit (l : List Byte) : programOutput (flushLit l) = l := by
  induction l using literal_induction with
  | nil => rfl
  | chunk l hl ih =>
    rw [flushLit_of_ne_nil hl, programOutput_cons, ih, opcodeOutput_copy, List.take_append_drop]

theorem programOutput_emitFill (v : Byte) {r : Nat} (hr : r ≠ 1) :
    programOutput (emitFill v r) = List.replicate r v := by
  induction r, hr using fill_induction with
  | zero => rfl
  | chunk r hr ih =>
    obtain ⟨-, hle, -⟩ := fillChunk_bounds hr
    rw [emitFill_of_pos v (by omega), programOutput_cons, ih, opcodeOutput_fill, List.replicate_append_replicate,
      Nat.add_sub_cancel' hle]

/-- The opcodes the scan emits produce the pending literals and what is left of the input (R147). -/
theorem Scan.programOutput_eq {pend l : List Byte} {p : List Instr} (h : Scan pend l p) :
    programOutput p = pend ++ l := by
  induction h with
  | done pend => rw [programOutput_flushLit, List.append_nil]
  | run hn hrest _ ih =>
    rw [programOutput_append, programOutput_append, programOutput_flushLit,
      programOutput_emitFill _ (Nat.ne_of_gt hn), ih, List.nil_append, List.append_assoc]
  | single _ _ ih => rw [ih, List.append_assoc, List.singleton_append]

theorem programOutput_rleProgram (s : List Byte) : programOutput (rleProgram s) = s :=
  (scan_rleProgram s).programOutput_eq

/-- Decoding undoes encoding within the budget (R147). -/
theorem rleDecode_rleEncode {s : List Byte} {budget : Nat} (h : s.length ≤ budget) :
    rleDecode (rleEncode s) budget = .ok s := by
  have hdec := rleDecodeFrom_assemble (inp := rleEncode s) (ip := 0) (out := []) (budget := budget)
    (scan_rleProgram s).forall_legalOpcode rfl (Nat.le_add_left ..) (by rw [programOutput_rleProgram]; simpa using h)
  rwa [programOutput_rleProgram] at hdec

/-- Settles O29: the encoder's opcodes are legal and produce the input, and the row decoder runs them. -/
theorem rowDecodeOfRowEncodeIsTheRow : Obligations.RowDecodeOfRowEncodeIsTheRow := by
  intro s b
  refine ⟨rleDecode_rleEncode, fun h => ?_⟩
  exact rleDecodeFrom_assemble_overflow (out := []) (scan_rleProgram s).forall_legalOpcode rfl (Nat.le_add_left ..)
    (Nat.zero_le b) (by rw [programOutput_rleProgram]; simpa using h)

end Sys2Proof.Machine
end

section
/-! The shape of the encoder's output (42_rle_encode.md R151). -/

namespace Sys2Proof.Machine

/-! ### What may follow what -/

theorem legalNeighbours_copy_fill (lits : List Byte) (n : Nat) (v : Byte) :
    legalNeighbours (.copy lits) (.fill n v) = true := rfl

theorem legalNeighbours_copy_copy_iff {lits lits' : List Byte} :
    legalNeighbours (.copy lits) (.copy lits') = true ↔ lits.length = 128 ∧ lits.getLast? ≠ lits'.head? := by
  simp [legalNeighbours]

theorem legalNeighbours_fill_of_full {n : Nat} (h : n = 129 ∨ n = 128) (v : Byte) (n' : Nat) :
    legalNeighbours (.fill n v) (.fill n' v) = true := by
  simp [legalNeighbours, h]

/-- After a FILL every opcode may stand that begins with another byte. -/
theorem legalNeighbours_fill_of_head?_ne {v : Byte} {i : Instr} (hi : legalOpcode i)
    (h : (opcodeOutput i).head? ≠ some v) (n : Nat) : legalNeighbours (.fill n v) i = true := by
  cases i with
  | copy lits => simpa [legalNeighbours] using h
  | fill n' v' =>
    obtain ⟨hge, -⟩ := legalOpcode_fill_iff.mp hi
    have hne : v' ≠ v := by simpa [List.head?_replicate, Nat.ne_of_gt (Nat.zero_lt_of_lt hge)] using h
    simp [legalNeighbours, hne.symm]
  | pack | unpack | encrow | decrow | encframe | decframe => rfl

/-- The first opcode of a legal program begins with the first byte the program produces. -/
theorem head?_opcodeOutput_of_head? {p : List Instr} {i : Instr} (hp : ∀ i ∈ p, legalOpcode i) (hi : i ∈ p.head?) :
    (opcodeOutput i).head? = (programOutput p).head? := by
  cases p with
  | nil => cases hi
  | cons j p =>
    obtain rfl := Option.some.inj hi
    rw [programOutput_cons, List.head?_append_of_ne_nil _ (opcodeOutput_ne_nil (hp _ (List.mem_cons_self ..)))]

/-! ### The opcodes of a flush, of a run and of the scan -/

/-- The COPYs of literals without equal neighbours: all but the last are full, and the literals differ across
the cuts. -/
theorem isChain_flushLit {l : List Byte} (h : l.IsChain (· ≠ ·)) :
    (flushLit l).IsChain (legalNeighbours · · = true) := by
  induction l using literal_induction with
  | nil => exact .nil
  | chunk l hl ih =>
    rw [flushLit_of_ne_nil hl]
    refine (ih (h.drop 128)).cons fun i hi => ?_
    by_cases hrest : l.drop 128 = []
    · rw [hrest] at hi
      cases hi
    · rw [flushLit_of_ne_nil hrest] at hi
      obtain rfl := Option.some.inj hi
      have hfull : l.take 128 ≠ [] := by simpa using hl
      have hlong : 128 < l.length := by simpa using hrest
      rw [← List.take_append_drop 128 l] at h
      have hcut := h.rel_getLast_head_of_append hfull hrest
      refine legalNeighbours_copy_copy_iff.mpr ⟨List.length_take_of_le hlong.le, ?_⟩
      rw [List.head?_take, if_neg (by decide), List.getLast?_eq_some_getLast hfull, List.head?_eq_some_head hrest]
      exact fun heq => hcut (Option.some.inj heq)

theorem isChain_emitFill (v : Byte) {r : Nat} (hr : r ≠ 1) : (emitFill v r).IsChain (legalNeighbours · · = true) := by
  induction r, hr using fill_induction with
  | zero => exact .nil
  | chunk r hr ih =>
    rw [emitFill_of_pos v (by omega)]
    refine ih.cons fun i hi => ?_
    rcases Nat.eq_zero_or_pos (r - fillChunk r) with hend | hrest
    · rw [hend] at hi
      cases hi
    · rw [emitFill_of_pos v hrest] at hi
      obtain rfl := Option.some.inj hi
      exact legalNeighbours_fill_of_full (fillChunk_of_rest hrest) v _

/-- The pending literals `pend` before the input `l` have no equal neighbours, and the first byte of `l` differs from
the last of them: what the scan keeps (R143). -/
def literalsDiffer (pend l : List Byte) : Prop := (pend ++ l.take 1).IsChain (· ≠ ·)

theorem literalsDiffer_nil (l : List Byte) : literalsDiffer [] l := by
  cases l with
  | nil => exact .nil
  | cons b t => exact .singleton b

theorem literalsDiffer.pend {pend l : List Byte} (h : literalsDiffer pend l) : pend.IsChain (· ≠ ·) :=
  h.left_of_append

/-- A single byte joins the literals and differs from its successor. -/
theorem literalsDiffer.single {pend t : List Byte} {b : Byte} (h : literalsDiffer pend (b :: t))
    (ht : t.head? ≠ some b) : literalsDiffer (pend ++ [b]) t := by
  cases t with
  | nil => rwa [literalsDiffer, List.take_nil, List.append_nil]
  | cons c t =>
    refine List.isChain_append.mpr ⟨h, .singleton c, ?_⟩
    simpa [eq_comm] using ht

theorem isChain_of_copy_mem_flushLit {l lits : List Byte} (h : l.IsChain (· ≠ ·)) (hmem : .copy lits ∈ flushLit l) :
    lits.IsChain (· ≠ ·) := by
  obtain ⟨_, heq, ⟨before, after, rfl⟩, -⟩ := exists_copy_of_mem_flushLit hmem
  cases heq
  exact h.left_of_append.right_of_append

/-- No COPY the scan emits holds two equal neighbours (R151). -/
theorem Scan.isChain_of_copy_mem {pend l : List Byte} {p : List Instr} (h : Scan pend l p)
    (hl : literalsDiffer pend l) {lits : List Byte} (hmem : .copy lits ∈ p) : lits.IsChain (· ≠ ·) := by
  induction h with
  | done pend => exact isChain_of_copy_mem_flushLit hl.pend hmem
  | run hn hrest _ ih =>
    rw [List.mem_append, List.mem_append] at hmem
    rcases hmem with (hmem | hmem) | hmem
    · exact isChain_of_copy_mem_flushLit hl.pend hmem
    · obtain ⟨k, heq, -⟩ := exists_fill_of_mem_emitFill (Nat.ne_of_gt hn) hmem
      cases heq
    · exact ih (literalsDiffer_nil _) hmem
  | single ht _ ih => exact ih (hl.single ht) hmem

/-- Consecutive opcodes of the scan: inside a flush, inside a run, a run after literals, and whatever follows a run,
which begins with another byte (R151). -/
theorem Scan.isChain {pend l : List Byte} {p : List Instr} (h : Scan pend l p) (hl : literalsDiffer pend l) :
    p.IsChain (legalNeighbours · · = true) := by
  induction h with
  | done pend => exact isChain_flushLit hl.pend
  | @run pend rest p b n hn hrest h ih =>
    rw [List.append_assoc]
    have hafter : (emitFill b n ++ p).IsChain (legalNeighbours · · = true) := by
      refine (isChain_emitFill b (Nat.ne_of_gt hn)).append (ih (literalsDiffer_nil _)) fun i hi j hj => ?_
      obtain ⟨k, rfl, -⟩ := exists_fill_of_mem_emitFill (Nat.ne_of_gt hn) (List.mem_of_mem_getLast? hi)
      refine legalNeighbours_fill_of_head?_ne (h.forall_legalOpcode j (List.mem_of_mem_head? hj)) ?_ k
      rwa [head?_opcodeOutput_of_head? h.forall_legalOpcode hj, h.programOutput_eq]
    refine (isChain_flushLit hl.pend).append hafter fun i hi j hj => ?_
    obtain ⟨lits, rfl, -⟩ := exists_copy_of_mem_flushLit (List.mem_of_mem_getLast? hi)
    rw [emitFill_of_pos b (Nat.zero_lt_of_lt hn)] at hj
    obtain rfl := Option.some.inj hj
    exact legalNeighbours_copy_fill ..
  | single ht _ ih => exact ih (hl.single ht)

/-- Settles O31: what the scan emits, from the beginning of the input with no literals pending. -/
theorem encoderOutputHasLegalShape : Obligations.EncoderOutputHasLegalShape := by
  intro s
  have hscan := scan_rleProgram s
  exact ⟨hscan.forall_legalOpcode,
    fun lits hmem => List.isChain_iff_getElem.mp (hscan.isChain_of_copy_mem (literalsDiffer_nil s) hmem),
    List.isChain_iff_getElem.mp (hscan.isChain (literalsDiffer_nil s))⟩

end Sys2Proof.Machine
end

section
/-! The bounds of the encoding, the threshold of a run, and ENCROW (42_rle_encode.md R146 to R152). -/

namespace Sys2Proof.Machine

/-! ### A single byte and a run -/

/-- A single byte and a run after it are a COPY of one literal and the FILLs of the run; what follows the run is
encoded on its own (R146). -/
theorem rleProgram_single_run {u v : Byte} {n : Nat} {rest : List Byte} (huv : u ≠ v) (hn : 2 ≤ n)
    (hrest : rest.head? ≠ some v) :
    rleProgram (u :: (List.replicate n v ++ rest)) = .copy [u] :: (emitFill v n ++ rleProgram rest) := by
  have hhead : (List.replicate n v ++ rest).head? ≠ some u := by
    obtain ⟨n, rfl⟩ : ∃ k, n = k + 1 := ⟨n - 1, by omega⟩
    simpa [List.replicate_succ] using huv.symm
  rw [rleProgram, List.length_cons, encodeScan_single hhead (Nat.lt_add_one _),
    encodeScan_run hn hrest (by rw [List.length_append, List.length_replicate])]
  rfl

/-- Settles O27: two equal bytes are a run, between literals too. -/
theorem twoEqualBytesBecomeAFill : Obligations.TwoEqualBytesBecomeAFill := by
  have hpair (v : Byte) : rleEncode [v, v] = [0xFF#8, v] := by
    have hprog : rleProgram [v, v] = _ := encodeScan_run (b := v) (rest := []) le_rfl nofun le_rfl []
    rw [rleEncode, hprog]
    rfl
  have hbetween (u v w : Byte) (huv : u ≠ v) (hvw : v ≠ w) :
      rleEncode [u, v, v, w] = [0x00#8, u, 0xFF#8, v, 0x00#8, w] := by
    have hprog := rleProgram_single_run huv le_rfl (rest := [w]) (by simpa using hvw.symm)
    exact congrArg assemble hprog
  exact ⟨hbetween _ _ _ (by decide) (by decide), hpair, hbetween⟩

/-! ### Bounds -/

theorem two_le_length_rleEncode {s : List Byte} (h : 1 ≤ s.length) : 2 ≤ (rleEncode s).length := by
  have hout := programOutput_rleProgram s
  have hlegal := (scan_rleProgram s).forall_legalOpcode
  rw [rleEncode]
  cases hp : rleProgram s with
  | nil =>
    rw [hp, programOutput_nil] at hout
    rw [← hout] at h
    cases h
  | cons i p =>
    have hsize := two_le_length_encode (hlegal i (hp ▸ List.mem_cons_self ..))
    rw [assemble_cons, List.length_append]
    omega

/-- The pattern single, pair, single, pair of R148, `n` bytes of it. -/
def singlePairPattern (n : Nat) : List Byte := (List.range n).map fun j => if j % 3 = 0 then 0x01#8 else 0x02#8

theorem singlePairPattern_add_three (n : Nat) :
    singlePairPattern (n + 3) = 0x01#8 :: (List.replicate 2 0x02#8 ++ singlePairPattern n) := by
  rw [singlePairPattern, Nat.add_comm, List.range_add, List.map_append, List.map_map]
  simp [singlePairPattern, List.range_succ, Function.comp_def]

theorem head?_singlePairPattern_ne (n : Nat) : (singlePairPattern n).head? ≠ some 0x02#8 := by
  cases n with
  | zero => nofun
  | succ n => simp [singlePairPattern, List.range_succ_eq_map]

/-- Each single and pair, three bytes, costs four (R148). -/
theorem length_rleEncode_singlePairPattern (n : Nat) :
    (rleEncode (singlePairPattern n)).length = (4 * n + 2) / 3 := by
  match n with
  | 0 => rfl
  | 1 => rfl
  | 2 => rfl
  | n + 3 =>
    have hprog := rleProgram_single_run (u := 0x01#8) (by decide) le_rfl (head?_singlePairPattern_ne n)
    have hfour : (rleEncode (singlePairPattern (n + 3))).length = (rleEncode (singlePairPattern n)).length + 4 := by
      rw [singlePairPattern_add_three, rleEncode, hprog]
      rfl
    rw [hfour, length_rleEncode_singlePairPattern n]
    omega

/-- Settles O30: the bounds, and the pattern that reaches the upper one. -/
theorem encodedLengthIsBounded : Obligations.EncodedLengthIsBounded :=
  ⟨length_rleEncode_le_double, fun _ h1 h128 => ⟨two_le_length_rleEncode h1, length_rleEncode_le_of_short h128⟩,
    fun n _ _ => length_rleEncode_singlePairPattern n⟩

/-! ### The commands -/

theorem exec_encrow_ready {s : State} (hs : s.status ≠ .failed) : exec .encrow s = .next (encrowBody s) := by
  rw [exec, execEncrow, issueRow_ready hs]

theorem encrowBody_badRowLen {s : State} (h : ¬ s.rowLenLegal = true) :
    encrowBody s = s.raise ⟨.badLength, 0, 0, 0, 0, s.rowLen.toNat⟩ := by
  rw [encrowBody, if_neg h, State.raisePlain]

theorem encrowBody_legal {s : State} (h : s.rowLenLegal = true) :
    encrowBody s = finishEncrow (rleEncode s.rawRow) s :=
  if_pos h

/-- Settles O32: the two branches of ENCROW's body; an encoded row has 2 to 107 bytes, so CROW_LEN holds its length. -/
theorem encrowFollowsItsRule : Obligations.EncrowFollowsItsRule := by
  intro s hs
  refine ⟨fun hrow => ?_, fun h1 h80 => ?_⟩
  · have hbad : ¬ s.rowLenLegal = true := by rw [State.rowLenLegal_iff]; omega
    rw [exec_encrow_ready hs, encrowBody_badRowLen hbad]
  · rw [exec_encrow_ready hs, encrowBody_legal (State.rowLenLegal_iff.mpr ⟨h1, h80⟩), State.rawRow]
    have hrow := s.rpb.length_readRange s.rowLen.toNat
    generalize s.rpb.readRange s.rowLen.toNat = row at hrow ⊢
    have hlower := two_le_length_rleEncode (s := row) (by omega)
    have hupper := length_rleEncode_le_of_short (s := row) (by omega)
    have hcrow : (BitVec.ofNat 8 (rleEncode row).length).toNat = (rleEncode row).length :=
      Nat.mod_eq_of_lt (by omega)
    exact ⟨_, rfl, Memory.holds_writeRange _ _, hcrow, hlower.trans_eq hcrow.symm, hcrow.trans_le (by omega), rfl⟩

/-- Settles O34: ENCROW leaves an encoding of the row in CPB[0..CROW_LEN), which DECROW decodes and writes back. -/
theorem decrowUndoesEncrow : Obligations.DecrowUndoesEncrow := by
  intro s hs h1 h80
  obtain ⟨t, ht, hcpb, hcrow, -, hcrow107, hframe⟩ := (encrowFollowsItsRule s hs).2 h1 h80
  have hdone : t.status = .done := by rw [hframe]
  have hrow : t.rowLen = s.rowLen := by rw [hframe]
  have hrpb : t.rpb = s.rpb := by rw [hframe]
  have hdec : rleDecode (t.cpb.readRange t.crowLen.toNat) t.rowLen.toNat = .ok (s.rpb.readRange s.rowLen.toNat) := by
    rw [hcpb.readRange_eq hcrow.symm, hrow]
    exact rleDecode_rleEncode (Memory.length_readRange ..).le
  obtain ⟨u, hu, hbytes, hcnt, -, hframe'⟩ :=
    ((decrowFollowsItsRule t (by simp [hdone])).2.2 (hrow ▸ h1) (hrow ▸ h80) (by omega)).2 _ hdec
  refine ⟨t, u, ht, hu, by rw [hframe'], BitVec.eq_of_toNat_eq ?_, ?_⟩
  · rw [hcnt, Memory.length_readRange]
  · rw [hrpb] at hbytes
    exact hbytes.sameReads

/-- Settles O28: with no input the loops end at once, and DECROW writes an empty row. -/
theorem emptyInputEncodesAndDecodesToNothing : Obligations.EmptyInputEncodesAndDecodesToNothing := by
  refine ⟨rfl, fun b => rfl, fun s hs h1 h80 hcrow => ?_⟩
  have hlen : s.crowLen.toNat = 0 := congrArg BitVec.toNat hcrow
  have hdec : rleDecode (s.cpb.readRange s.crowLen.toNat) s.rowLen.toNat = .ok [] := by rw [hlen]; rfl
  obtain ⟨t, ht, hbytes, hcnt, -, hframe⟩ := ((decrowFollowsItsRule s hs).2.2 h1 h80 (by omega)).2 _ hdec
  exact ⟨t, ht, by rw [hframe], BitVec.eq_of_toNat_eq hcnt, fun a => hbytes.2 a (Nat.zero_le a)⟩

end Sys2Proof.Machine
end

section
/-! The row-planes of a frame: they partition the plane bytes, `scatter` is the inverse of `gather`, and a frame is made of
its row-planes (20_memory.md R57, R58, 43_frame_codec.md R160 to R162). -/

namespace Sys2Proof.Machine

/-! ### The partition of the plane bytes -/

section

variable {g : Geometry}

/-- A row-plane has two bytes for each tile of its scanline (R6). -/
theorem Geometry.rowBytes_eq (hg : g.wf = true) : g.rowBytes = g.tiles * 2 := by
  have hw := Geometry.w_eq hg
  unfold Geometry.rowBytes
  omega

theorem Geometry.rowBytes_pos (hg : g.wf = true) : 0 < g.rowBytes := by
  simp only [Geometry.wf, Bool.and_eq_true, decide_eq_true_eq] at hg
  unfold Geometry.rowBytes
  omega

theorem Geometry.planes_pos (g : Geometry) : 0 < g.planes := by
  rw [Geometry.planes, Nat.one_shiftLeft]
  exact Nat.two_pow_pos _

/-- The tile of byte j of a row-plane is one of its scanline's. -/
theorem Geometry.half_lt_tiles (hg : g.wf = true) {j : Nat} (hj : j < g.rowBytes) : j / 2 < g.tiles := by
  rw [Geometry.rowBytes_eq hg] at hj
  omega

theorem Geometry.rpaddr_lt (hg : g.wf = true) {y z j : Nat} (hy : y < g.h) (hz : z < g.planes) (hj : j < g.rowBytes) :
    g.rpaddr y z j < g.rawBytes :=
  Geometry.woff_add_lt hg hy (Geometry.half_lt_tiles hg hj) hz (Nat.mod_lt j (by decide))

/-- Every offset of the plane bytes is a byte of a row-plane (R161). -/
theorem Geometry.exists_rpaddr_eq (hg : g.wf = true) {a : Nat} (ha : a < g.rawBytes) :
    ∃ y z j, y < g.h ∧ z < g.planes ∧ j < g.rowBytes ∧ g.rpaddr y z j = a := by
  obtain ⟨y, t, z, b, hy, ht, hz, hb, rfl⟩ := Geometry.exists_woff_add_eq hg ha
  have htile : (t * 2 + b) / 2 = t := by omega
  have hhalf : (t * 2 + b) % 2 = b := by omega
  refine ⟨y, z, t * 2 + b, hy, hz, by rw [Geometry.rowBytes_eq hg]; omega, ?_⟩
  rw [Geometry.rpaddr, htile, hhalf]

/-- Quotient and remainder of a mixed-radix number are determined by it. -/
theorem mul_add_inj {n a b a' b' : Nat} (hb : b < n) (hb' : b' < n) (h : a * n + b = a' * n + b') :
    a = a' ∧ b = b' := by
  have hrem : b = b' := by
    have hmod := congrArg (· % n) h
    simpa [Nat.mod_eq_of_lt hb, Nat.mod_eq_of_lt hb'] using hmod
  subst hrem
  exact ⟨Nat.eq_of_mul_eq_mul_right (Nat.zero_lt_of_lt hb) (Nat.add_right_cancel h), rfl⟩

/-- Different bytes of row-planes stand at different offsets (R161). -/
theorem Geometry.rpaddr_inj (hg : g.wf = true) {y z j y' z' j' : Nat} (hz : z < g.planes) (hz' : z' < g.planes)
    (hj : j < g.rowBytes) (hj' : j' < g.rowBytes) (h : g.rpaddr y z j = g.rpaddr y' z' j') :
    y = y' ∧ z = z' ∧ j = j' := by
  obtain ⟨hword, hbyte⟩ := mul_add_inj (Nat.mod_lt j (by decide)) (Nat.mod_lt j' (by decide)) h
  obtain ⟨htile, hplane⟩ := mul_add_inj hz hz' hword
  obtain ⟨hline, hhalf⟩ := mul_add_inj (Geometry.half_lt_tiles hg hj) (Geometry.half_lt_tiles hg hj') htile
  exact ⟨hline, hplane, by omega⟩

theorem Geometry.scanlineOf_lt {q : Nat} (hq : q < g.rowPlanes) : g.scanlineOf q < g.h :=
  Nat.div_lt_of_lt_mul (by rwa [Nat.mul_comm])

theorem Geometry.planeOf_lt (g : Geometry) (q : Nat) : g.planeOf q < g.planes := Nat.mod_lt q (Geometry.planes_pos g)

/-- The number of a row-plane is determined by its scanline and its plane (R162). -/
theorem Geometry.rowPlane_inj {q q' : Nat} (hy : g.scanlineOf q = g.scanlineOf q') (hz : g.planeOf q = g.planeOf q') :
    q = q' := by
  rw [← Nat.div_add_mod q g.planes, ← Nat.div_add_mod q' g.planes]
  exact congrArg₂ (g.planes * · + ·) hy hz

end

/-! ### Writing a list of offsets -/

theorem getD_set_same {d : List Byte} {a : Nat} (ha : a < d.length) (v : Byte) : (d.set a v).getD a 0 = v := by
  simp [List.getD_eq_getElem?_getD, ha]

theorem getD_set_ne {d : List Byte} {a b : Nat} (h : b ≠ a) (v : Byte) : (d.set b v).getD a 0 = d.getD a 0 := by
  simp [List.getD_eq_getElem?_getD, List.getElem?_set_ne h]

/-- Offsets that are not written keep their bytes. -/
theorem getD_foldl_set_ne (f : Nat → Nat) (r : Nat → Byte) {l : List Nat} {a : Nat} (h : ∀ j ∈ l, f j ≠ a)
    (d : List Byte) : (l.foldl (fun d j => d.set (f j) (r j)) d).getD a 0 = d.getD a 0 := by
  induction l generalizing d with
  | nil => rfl
  | cons i l ih =>
    obtain ⟨hi, hl⟩ := List.forall_mem_cons.mp h
    rw [List.foldl_cons, ih hl, getD_set_ne hi]

/-- An offset that one index of the list writes holds what it wrote. -/
theorem getD_foldl_set_mem (f : Nat → Nat) (r : Nat → Byte) {l : List Nat} {j : Nat} (hj : j ∈ l)
    (hinj : ∀ i ∈ l, f i = f j → i = j) {d : List Byte} (hd : f j < d.length) :
    (l.foldl (fun d j => d.set (f j) (r j)) d).getD (f j) 0 = r j := by
  induction l generalizing d with
  | nil => cases hj
  | cons i l ih =>
    obtain ⟨hi, hl⟩ := List.forall_mem_cons.mp hinj
    rw [List.foldl_cons]
    by_cases hmem : j ∈ l
    · exact ih hmem hl (by rwa [List.length_set])
    · obtain rfl : j = i := (List.mem_cons.mp hj).resolve_right hmem
      rw [getD_foldl_set_ne f r fun k hk heq => hmem (hl k hk heq ▸ hk), getD_set_same hd]

/-! ### gather and scatter -/

/-- Byte j of a gathered row-plane (R160). -/
theorem getD_gather (g : Geometry) (d : List Byte) (y z : Nat) {j : Nat} (hj : j < g.rowBytes) :
    (gather g d y z).getD j 0 = d.getD (g.rpaddr y z j) 0 := by
  simp [gather, hj]

theorem getD_scatter_ne {g : Geometry} {y z a : Nat} (h : ∀ j, j < g.rowBytes → g.rpaddr y z j ≠ a) (d r : List Byte) :
    (scatter g d y z r).getD a 0 = d.getD a 0 :=
  getD_foldl_set_ne (g.rpaddr y z) (fun j => r.getD j 0) (fun j hj => h j (List.mem_range.mp hj)) d

section

variable {g : Geometry} {d : List Byte} {y z : Nat}

theorem getD_scatter_rpaddr (hg : g.wf = true) (hd : d.length = g.rawBytes) (hy : y < g.h) (hz : z < g.planes)
    (r : List Byte) {j : Nat} (hj : j < g.rowBytes) :
    (scatter g d y z r).getD (g.rpaddr y z j) 0 = r.getD j 0 := by
  refine getD_foldl_set_mem (g.rpaddr y z) (fun j => r.getD j 0) (List.mem_range.mpr hj) (fun i hi heq => ?_)
    (hd ▸ Geometry.rpaddr_lt hg hy hz hj)
  exact (Geometry.rpaddr_inj hg hz hz (List.mem_range.mp hi) hj heq).2.2

/-- The row-plane that was scattered is gathered (R161). -/
theorem gather_scatter_same (hg : g.wf = true) (hd : d.length = g.rawBytes) (hy : y < g.h) (hz : z < g.planes)
    {r : List Byte} (hr : r.length = g.rowBytes) : gather g (scatter g d y z r) y z = r := by
  refine eq_of_getD_eq 0 ((length_gather ..).trans hr.symm) fun j hj => ?_
  rw [hr] at hj
  rw [getD_gather g _ y z hj, getD_scatter_rpaddr hg hd hy hz r hj]

/-- Scattering a row-plane leaves every other row-plane as it was (R161). -/
theorem gather_scatter_ne (hg : g.wf = true) (hz : z < g.planes) {y' z' : Nat} (hz' : z' < g.planes)
    (hne : ¬ (y = y' ∧ z = z')) (d r : List Byte) : gather g (scatter g d y z r) y' z' = gather g d y' z' := by
  refine eq_of_getD_eq 0 (by simp) fun j hj => ?_
  rw [length_gather] at hj
  rw [getD_gather g _ y' z' hj, getD_gather g _ y' z' hj, getD_scatter_ne]
  intro i hi heq
  obtain ⟨hline, hplane, -⟩ := Geometry.rpaddr_inj hg hz hz' hi hj heq
  exact hne ⟨hline, hplane⟩

end

/-- Settles O44: an offset is a byte of one word, so of one row-plane, and the writes of `scatter` do not meet. -/
theorem scatterWritesOneCellOfThePartition : Obligations.ScatterWritesOneCellOfThePartition := by
  refine ⟨fun g hg => ⟨fun a ha => ?_, fun y z j => Geometry.rpaddr_lt hg⟩, fun g d r y z hg hd hr hy hz => ?_⟩
  · obtain ⟨y, z, j, hy, hz, hj, rfl⟩ := Geometry.exists_rpaddr_eq hg ha
    exact ⟨y, z, j, hy, hz, hj, rfl, fun y' z' j' _ hz' hj' => Geometry.rpaddr_inj hg hz' hz hj' hj⟩
  · exact ⟨length_scatter .., fun j => getD_scatter_rpaddr hg hd hy hz r, fun a h => getD_scatter_ne h d r,
      gather_scatter_same hg hd hy hz hr⟩

/-- Bit 7 − x mod 8 of byte x div 8 of a packed matrix's row-plane is bit z of the index of pixel x (R57, R160). -/
theorem getLsbD_gather_pack {g : Geometry} {m : List IndexCell} (hg : g.wf = true) (hm : m.length = g.cellCount)
    {x y z : Nat} (hx : x < g.w) (hy : y < g.h) (hz : z < g.planes) :
    ((gather g (pack g m) y z).getD (x / 8) 0).getLsbD (7 - x % 8) = (m.getD (y * g.w + x) 0).getLsbD z := by
  obtain ⟨-, hbits⟩ := packPutsEveryBitInItsPlace g m hg hm
  obtain ⟨-, hhigh, hlow⟩ := hbits x y z hx hy hz
  have hj : x / 8 < g.rowBytes := by
    have hw := Geometry.w_eq hg
    rw [Geometry.rowBytes_eq hg]
    omega
  have htile : x / 8 / 2 = x / 16 := Nat.div_div_eq_div_mul ..
  rw [getD_gather g _ y z hj, Geometry.rpaddr, htile]
  by_cases hfirst : x % 16 ≤ 7
  · have hbyte : x / 8 % 2 = 0 := by omega
    have hlane : 7 - x % 8 = 7 - x % 16 := by omega
    rw [hbyte, hlane, Nat.add_zero, hhigh hfirst]
  · have hbyte : x / 8 % 2 = 1 := by omega
    have hlane : 7 - x % 8 = 15 - x % 16 := by omega
    rw [hbyte, hlane, hlow (by omega)]

/-- Settles O45: byte j of a row-plane is half of the word of its tile, and a word's two bytes are the two halves of its
tile's pixels. -/
theorem rowPlaneIsTheScanlineOfOneBit : Obligations.RowPlaneIsTheScanlineOfOneBit := by
  refine ⟨fun g d y z j hj => ⟨length_gather .., getD_gather g d y z hj, rfl⟩,
    fun g m y z x hg hm => getLsbD_gather_pack hg hm, fun y j => ?_⟩
  simp only [Geometry.rpaddr, Geometry.woff, geometryPI3_parameters]
  omega

/-! ### A frame and its row-planes -/

/-- The first `n` row-planes of a frame, in stream order (R162). -/
def framePlanes (g : Geometry) (d : List Byte) (n : Nat) : List (List Byte) :=
  (List.range n).map fun q => gather g d (g.scanlineOf q) (g.planeOf q)

@[simp] theorem length_framePlanes (g : Geometry) (d : List Byte) (n : Nat) : (framePlanes g d n).length = n := by
  simp [framePlanes]

theorem length_of_mem_framePlanes {g : Geometry} {d r : List Byte} {n : Nat} (h : r ∈ framePlanes g d n) :
    r.length = g.rowBytes := by
  obtain ⟨q, -, rfl⟩ := List.mem_map.mp h
  exact length_gather ..

section

variable {g : Geometry}

theorem gather_scatterFrom_of_lt (hg : g.wf = true) {p q : Nat} (hp : p < q) (rows : List (List Byte)) (d : List Byte) :
    gather g (scatterFrom g q rows d) (g.scanlineOf p) (g.planeOf p)
      = gather g d (g.scanlineOf p) (g.planeOf p) := by
  induction rows generalizing q d with
  | nil => rfl
  | cons r rows ih =>
    rw [scatterFrom, ih (Nat.lt_succ_of_lt hp), gather_scatter_ne hg (Geometry.planeOf_lt g q) (Geometry.planeOf_lt g p)]
    rintro ⟨hy, hz⟩
    exact absurd (Geometry.rowPlane_inj hy hz) (Nat.ne_of_gt hp)

/-- Every row-plane that was scattered is gathered: the later ones leave it alone (R161, R162). -/
theorem gather_scatterFrom (hg : g.wf = true) {rows : List (List Byte)} (hrows : ∀ r ∈ rows, r.length = g.rowBytes)
    {q i : Nat} {d : List Byte} (hd : d.length = g.rawBytes) (hq : q + rows.length ≤ g.rowPlanes)
    (hi : i < rows.length) :
    gather g (scatterFrom g q rows d) (g.scanlineOf (q + i)) (g.planeOf (q + i)) = rows[i] := by
  induction rows generalizing q i d with
  | nil => cases hi
  | cons r rows ih =>
    obtain ⟨hr, hrows⟩ := List.forall_mem_cons.mp hrows
    rw [List.length_cons] at hq hi
    rw [scatterFrom]
    cases i with
    | zero =>
      rw [Nat.add_zero q, gather_scatterFrom_of_lt hg (Nat.lt_add_one q)]
      exact gather_scatter_same hg hd (Geometry.scanlineOf_lt (by omega)) (Geometry.planeOf_lt g q) hr
    | succ i =>
      have hnum : q + (i + 1) = q + 1 + i := by omega
      rw [hnum, List.getElem_cons_succ]
      exact ih hrows ((length_scatter ..).trans hd) (by omega) (Nat.lt_of_succ_lt_succ hi)

theorem gather_assemblePlanes (hg : g.wf = true) {rows : List (List Byte)} (hlen : rows.length = g.rowPlanes)
    (hrows : ∀ r ∈ rows, r.length = g.rowBytes) {q : Nat} (hq : q < rows.length) :
    gather g (assemblePlanes g rows) (g.scanlineOf q) (g.planeOf q) = rows[q] := by
  have h := gather_scatterFrom hg hrows (q := 0) (List.length_replicate (a := (0 : Byte))) (by omega) hq
  rwa [Nat.zero_add] at h

/-- A frame is determined by its row-planes (R161). -/
theorem eq_of_gather_eq (hg : g.wf = true) {d d' : List Byte} (hd : d.length = g.rawBytes)
    (hd' : d'.length = g.rawBytes) (h : ∀ y z, y < g.h → z < g.planes → gather g d y z = gather g d' y z) : d = d' := by
  refine eq_of_getD_eq 0 (hd.trans hd'.symm) fun a ha => ?_
  obtain ⟨y, z, j, hy, hz, hj, rfl⟩ := Geometry.exists_rpaddr_eq hg (hd' ▸ ha)
  rw [← getD_gather g d y z hj, ← getD_gather g d' y z hj, h y z hy hz]

/-- The row-planes of a frame, assembled, are the frame (R161, R167). -/
theorem assemblePlanes_framePlanes (hg : g.wf = true) {d : List Byte} (hd : d.length = g.rawBytes) :
    assemblePlanes g (framePlanes g d g.rowPlanes) = d := by
  refine eq_of_gather_eq hg (length_assemblePlanes ..) hd fun y z hy hz => ?_
  obtain ⟨q, hq, rfl, rfl⟩ : ∃ q, q < g.rowPlanes ∧ g.scanlineOf q = y ∧ g.planeOf q = z := by
    refine ⟨g.planes * y + z, Nat.mul_add_lt_mul_of_lt_of_lt hy hz, ?_, ?_⟩
    · rw [Geometry.scanlineOf, Nat.mul_add_div (Geometry.planes_pos g), Nat.div_eq_of_lt hz, Nat.add_zero]
    · rw [Geometry.planeOf, Nat.mul_add_mod, Nat.mod_eq_of_lt hz]
  rw [gather_assemblePlanes hg (length_framePlanes ..) (fun r => length_of_mem_framePlanes)
    (by rwa [length_framePlanes])]
  simp [framePlanes]

end

end Sys2Proof.Machine
end

section
/-! The frame decoder's loops (43_frame_codec.md R162, R167, R168, R170, R171). -/

namespace Sys2Proof.Machine

/-! ### One row-plane -/

/-- At the end of the input there is no control byte (R170). -/
theorem decodeOp_end {inp : List Byte} {ip : Nat} (h : inp.length ≤ ip) (op budget : Nat) :
    decodeOp inp ip op budget = .error ⟨.rleTruncated, ip, op, 0⟩ := by
  rw [decodeOp, List.drop_eq_nil_of_le h]
  rfl

section

variable {g : Geometry} {inp row : List Byte} {ip : Nat}

/-- The loop ends when the row-plane has its B bytes (R168). -/
theorem decodeRowPlane_full (h : g.rowBytes ≤ row.length) (fuel : Nat) :
    decodeRowPlane g inp fuel ip row = .ok (ip, row) := by
  cases fuel with
  | zero => rfl
  | succ fuel => rw [decodeRowPlane, if_neg (Nat.not_lt.mpr h)]

/-- A fault at an opcode, or for want of one at the end of the input, is the row-plane's (R167, R170). -/
theorem decodeRowPlane_step_error {e : StreamFault} (hrow : row.length < g.rowBytes)
    (h : decodeOp inp ip row.length g.rowBytes = .error e) (fuel : Nat) :
    decodeRowPlane g inp (fuel + 1) ip row = .error e := by
  rw [decodeRowPlane, if_pos hrow]
  rcases Nat.lt_or_ge ip inp.length with hip | hend
  · rw [if_neg (Nat.not_le.mpr hip), h]
  · rw [decodeOp_end hend] at h
    rw [if_pos hend, ← h]

theorem decodeRowPlane_step_ok {ip' : Nat} {bytes : List Byte}
    (h : decodeOp inp ip row.length g.rowBytes = .ok (ip', bytes)) (fuel : Nat) :
    decodeRowPlane g inp (fuel + 1) ip row = decodeRowPlane g inp fuel ip' (row ++ bytes) := by
  obtain ⟨hip, -, -, hpos, -, hfits⟩ := decodeOp_ok h
  rw [decodeRowPlane, if_pos (by omega), if_neg (Nat.not_le.mpr hip), h]

end

/-- An opcode produces at least one byte, so fuel for the bytes missing never runs out, and any two such amounts
agree. -/
theorem decodeRowPlane_fuel {g : Geometry} {inp : List Byte} {fuel fuel' ip : Nat} {row : List Byte}
    (h : g.rowBytes ≤ row.length + fuel) (h' : g.rowBytes ≤ row.length + fuel') :
    decodeRowPlane g inp fuel ip row = decodeRowPlane g inp fuel' ip row := by
  induction fuel generalizing fuel' ip row with
  | zero => rw [decodeRowPlane_full h, decodeRowPlane_full h]
  | succ fuel ih =>
    rcases Nat.lt_or_ge row.length g.rowBytes with hrow | hfull
    · obtain ⟨fuel', rfl⟩ : ∃ k, fuel' = k + 1 := ⟨fuel' - 1, by omega⟩
      cases hop : decodeOp inp ip row.length g.rowBytes with
      | error e => rw [decodeRowPlane_step_error hrow hop, decodeRowPlane_step_error hrow hop]
      | ok r =>
        obtain ⟨ip', bytes⟩ := r
        obtain ⟨-, -, -, hpos, -⟩ := decodeOp_ok hop
        rw [decodeRowPlane_step_ok hop, decodeRowPlane_step_ok hop]
        exact ih (by rw [List.length_append]; omega) (by rw [List.length_append]; omega)
    · rw [decodeRowPlane_full hfull, decodeRowPlane_full hfull]

/-- A decoded row-plane has exactly B bytes, begins with those already there, and has not moved ip back (R168). -/
theorem decodeRowPlane_ok {g : Geometry} {inp : List Byte} {fuel ip ip' : Nat} {row row' : List Byte}
    (hrow : row.length ≤ g.rowBytes) (hfuel : g.rowBytes ≤ row.length + fuel)
    (h : decodeRowPlane g inp fuel ip row = .ok (ip', row')) :
    row'.length = g.rowBytes ∧ row <+: row' ∧ ip ≤ ip' := by
  induction fuel generalizing ip row with
  | zero =>
    obtain ⟨rfl, rfl⟩ := Prod.mk.inj (Except.ok.inj h)
    exact ⟨by omega, List.prefix_rfl, le_rfl⟩
  | succ fuel ih =>
    rcases Nat.lt_or_ge row.length g.rowBytes with hmissing | hfull
    · cases hop : decodeOp inp ip row.length g.rowBytes with
      | error e =>
        rw [decodeRowPlane_step_error hmissing hop] at h
        cases h
      | ok r =>
        obtain ⟨ip'', bytes⟩ := r
        obtain ⟨-, hadv, -, hpos, -, hfits⟩ := decodeOp_ok hop
        rw [decodeRowPlane_step_ok hop] at h
        obtain ⟨hlen, hext, hip⟩ :=
          ih (by rw [List.length_append]; omega) (by rw [List.length_append]; omega) h
        exact ⟨hlen, (List.prefix_append row bytes).trans hext, by omega⟩
    · rw [decodeRowPlane_full hfull] at h
      obtain ⟨rfl, rfl⟩ := Prod.mk.inj (Except.ok.inj h)
      exact ⟨by omega, List.prefix_rfl, le_rfl⟩

/-- Settles O47: the loop stops at B bytes and no opcode passes them, and the overflow check comes before all else. -/
theorem anOpcodeNeverSpansRowPlanes : Obligations.AnOpcodeNeverSpansRowPlanes := by
  refine fun g inp ip row hrow => ⟨fun ip' row' => decodeRowPlane_ok hrow (by omega), fun hip hmissing hover => ?_⟩
  obtain ⟨fuel, hfuel⟩ : ∃ k, g.rowBytes - row.length = k + 1 := ⟨g.rowBytes - row.length - 1, by omega⟩
  rw [hfuel]
  exact decodeRowPlane_step_error hmissing (decodeOp_overflow hip (by omega)) fuel

/-! ### All row-planes -/

section

variable {g : Geometry} {inp : List Byte} {q ip : Nat}

theorem decodeRowPlanes_zero (g : Geometry) (inp : List Byte) (q ip : Nat) :
    decodeRowPlanes g inp 0 q ip = .ok (ip, []) := rfl

theorem decodeRowPlanes_succ_error {e : StreamFault} (h : decodeRowPlane g inp g.rowBytes ip [] = .error e) (n : Nat) :
    decodeRowPlanes g inp (n + 1) q ip = .error (rowFault g q e) := by
  rw [decodeRowPlanes, h]

/-- After a row-plane the loop goes on with the next one, from where the first left the pointer (R162). -/
theorem decodeRowPlanes_succ_ok {ip' : Nat} {row : List Byte}
    (h : decodeRowPlane g inp g.rowBytes ip [] = .ok (ip', row)) (n : Nat) :
    decodeRowPlanes g inp (n + 1) q ip
      = (decodeRowPlanes g inp n (q + 1) ip').map fun r => (r.1, row :: r.2) := by
  rw [decodeRowPlanes, h]
  cases hrest : decodeRowPlanes g inp n (q + 1) ip' <;> simp [hrest, Except.map]

theorem decodeFrame_of_error {f : FaultRecord} (h : decodeRowPlanes g inp g.rowPlanes 0 0 = .error f) :
    decodeFrame g inp = .error f := by
  rw [decodeFrame, h]

theorem decodeFrame_of_trailing {rows : List (List Byte)}
    (h : decodeRowPlanes g inp g.rowPlanes 0 0 = .ok (ip, rows)) (hip : ip < inp.length) :
    decodeFrame g inp = .error (trailingFault g ip) := by
  simp only [decodeFrame, h, if_pos hip]

theorem decodeFrame_of_ok {rows : List (List Byte)} (h : decodeRowPlanes g inp g.rowPlanes 0 0 = .ok (ip, rows))
    (hip : inp.length ≤ ip) : decodeFrame g inp = .ok (assemblePlanes g rows) := by
  simp only [decodeFrame, h, if_neg (Nat.not_lt.mpr hip)]

end

/-- A row-plane loop that succeeds has decoded as many row-planes as it was asked for. -/
theorem length_of_decodeRowPlanes_ok {g : Geometry} {inp : List Byte} {n q ip ip' : Nat} {rows : List (List Byte)}
    (h : decodeRowPlanes g inp n q ip = .ok (ip', rows)) : rows.length = n := by
  induction n generalizing q ip rows with
  | zero =>
    cases h
    rfl
  | succ n ih =>
    cases hrow : decodeRowPlane g inp g.rowBytes ip [] with
    | error e =>
      rw [decodeRowPlanes_succ_error hrow] at h
      cases h
    | ok r =>
      obtain ⟨ip'', row⟩ := r
      rw [decodeRowPlanes_succ_ok hrow] at h
      cases hrest : decodeRowPlanes g inp n (q + 1) ip'' with
      | error f =>
        rw [hrest] at h
        cases h
      | ok p =>
        rw [hrest] at h
        cases h
        rw [List.length_cons, ih hrest]

/-! ### The order of the row-planes -/

/-- The numbers below `a * b`, taken apart into quotient and remainder, run through the pairs in order. -/
theorem flatMap_range_mul {α : Type} (f : Nat → Nat → List α) (a b : Nat) :
    ((List.range (a * b)).flatMap fun q => f (q / b) (q % b))
      = (List.range a).flatMap fun y => (List.range b).flatMap fun z => f y z := by
  induction a with
  | zero => simp
  | succ a ih =>
    have hlast : ((List.range b).flatMap fun z => f ((a * b + z) / b) ((a * b + z) % b))
        = (List.range b).flatMap fun z => f a z := by
      refine List.flatMap_congr fun z hz => ?_
      have hz := List.mem_range.mp hz
      rw [Nat.mul_comm, Nat.mul_add_div (Nat.zero_lt_of_lt hz), Nat.mul_add_mod, Nat.div_eq_of_lt hz,
        Nat.mod_eq_of_lt hz, Nat.add_zero]
    rw [Nat.succ_mul, List.range_add, List.flatMap_append, ih, List.flatMap_map, List.range_succ,
      List.flatMap_append, List.flatMap_singleton]
    exact congrArg _ hlast

/-- A frame is encoded row-plane by row-plane, in stream order (R162, R163). -/
theorem encodeFrame_eq_flatMap (g : Geometry) (d : List Byte) :
    encodeFrame g d = (List.range g.rowPlanes).flatMap fun q => rleEncode (gather g d (q / g.planes) (q % g.planes)) :=
  (flatMap_range_mul (fun y z => rleEncode (gather g d y z)) g.h g.planes).symm

/-- Settles O46: the loops' equations, the inner one with the fuel that is left exchanged for the bytes missing. -/
theorem frameLoopsFollowTheirRules : Obligations.FrameLoopsFollowTheirRules := by
  refine ⟨encodeFrame_eq_flatMap, fun g inp => rfl, fun g inp q ip => ⟨rfl, fun n => rfl⟩,
    fun g inp fuel ip row hfuel => ?_, fun g rows hg hlen hrows =>
      ⟨length_assemblePlanes .., fun q hq => gather_assemblePlanes hg hlen hrows hq⟩⟩
  split
  next hrow =>
    obtain ⟨fuel, rfl⟩ : ∃ k, fuel = k + 1 := ⟨fuel - 1, by omega⟩
    split
    next hend => exact decodeRowPlane_step_error hrow (decodeOp_end hend ..) fuel
    next hip =>
      split
      next e hop => exact decodeRowPlane_step_error hrow hop fuel
      next ip' bytes hop =>
        obtain ⟨-, -, -, hpos, -⟩ := decodeOp_ok hop
        rw [decodeRowPlane_step_ok hop]
        exact decodeRowPlane_fuel (by rw [List.length_append]; omega) (by omega)
  next hfull => exact decodeRowPlane_full (Nat.not_lt.mp hfull) fuel

end Sys2Proof.Machine
end

section
/-! Decoding an encoded frame, whole, with bytes after it, and cut off between row-planes (43_frame_codec.md R170 to R172). -/

namespace Sys2Proof.Machine

/-! ### A row-plane of an encoded frame -/

/-- The row-plane decoder runs a legal program at its pointer that produces the bytes missing, and stops behind it,
whatever stands there (R124, R168). -/
theorem decodeRowPlane_assemble {g : Geometry} {inp rest : List Byte} {fuel ip : Nat} {row : List Byte} {p : List Instr}
    (hp : ∀ i ∈ p, legalOpcode i) (hin : inp.drop ip = assemble p ++ rest)
    (hlen : row.length + (programOutput p).length = g.rowBytes) (hfuel : g.rowBytes ≤ row.length + fuel) :
    decodeRowPlane g inp fuel ip row = .ok (ip + (assemble p).length, row ++ programOutput p) := by
  induction p generalizing fuel ip row with
  | nil =>
    rw [decodeRowPlane_full hlen.symm.le, programOutput_nil, List.append_nil]
    rfl
  | cons i p ih =>
    obtain ⟨hi, hp⟩ := List.forall_mem_cons.mp hp
    rw [assemble_cons, List.append_assoc] at hin
    rw [programOutput_cons, List.length_append] at hlen
    have hpos := List.length_pos_iff.mpr (opcodeOutput_ne_nil hi)
    have hop := decodeOp_encode hi hin row.length g.rowBytes
    rw [opcodeStep_of_le hi.2 (by omega)] at hop
    obtain ⟨fuel, rfl⟩ : ∃ k, fuel = k + 1 := ⟨fuel - 1, by omega⟩
    rw [decodeRowPlane_step_ok hop, ih hp (drop_add_length_encode hin) (by rw [List.length_append]; omega)
      (by rw [List.length_append]; omega), assemble_cons, List.length_append, programOutput_cons, List.append_assoc,
      Nat.add_assoc]

/-- The encoding of a row of B bytes decodes to the row as a row-plane (R147). -/
theorem decodeRowPlane_rleEncode {g : Geometry} {inp rest s : List Byte} {ip : Nat} (hs : s.length = g.rowBytes)
    (hin : inp.drop ip = rleEncode s ++ rest) :
    decodeRowPlane g inp g.rowBytes ip [] = .ok (ip + (rleEncode s).length, s) := by
  have h := decodeRowPlane_assemble (g := g) (row := []) (scan_rleProgram s).forall_legalOpcode hin
    (by rwa [programOutput_rleProgram, List.length_nil, Nat.zero_add]) (Nat.le_add_left ..)
  rwa [programOutput_rleProgram] at h

/-! ### The row-planes of an encoded frame -/

/-- Encoded row-planes at the pointer are decoded, and the loop goes on behind them with those still to come (R162). -/
theorem decodeRowPlanes_flatMap_rleEncode {g : Geometry} {inp rest : List Byte} {rows : List (List Byte)} {q ip : Nat}
    (hrows : ∀ r ∈ rows, r.length = g.rowBytes) (hin : inp.drop ip = rows.flatMap rleEncode ++ rest) (n : Nat) :
    decodeRowPlanes g inp (rows.length + n) q ip
      = (decodeRowPlanes g inp n (q + rows.length) (ip + (rows.flatMap rleEncode).length)).map
          fun r => (r.1, rows ++ r.2) := by
  induction rows generalizing q ip with
  | nil =>
    rw [List.length_nil, Nat.zero_add]
    exact (congrFun Except.map_id _).symm
  | cons r rows ih =>
    obtain ⟨hr, hrows⟩ := List.forall_mem_cons.mp hrows
    rw [List.flatMap_cons, List.append_assoc] at hin
    have hrest : inp.drop (ip + (rleEncode r).length) = rows.flatMap rleEncode ++ rest := by
      rw [← List.drop_drop, hin, List.drop_left]
    rw [List.length_cons, Nat.add_right_comm, decodeRowPlanes_succ_ok (decodeRowPlane_rleEncode hr hin), ih hrows hrest,
      List.flatMap_cons, List.length_append, Nat.add_assoc ip, Nat.add_assoc q, Nat.add_comm 1]
    generalize decodeRowPlanes g inp n _ _ = later
    cases later <;> rfl

/-- The encoding of N row-planes, with any bytes after it: the pointer stops behind the encoding (R162). -/
theorem decodeRowPlanes_encoded {g : Geometry} {rows : List (List Byte)} (hrows : ∀ r ∈ rows, r.length = g.rowBytes)
    (rest : List Byte) :
    decodeRowPlanes g (rows.flatMap rleEncode ++ rest) rows.length 0 0
      = .ok ((rows.flatMap rleEncode).length, rows) := by
  have h := decodeRowPlanes_flatMap_rleEncode (q := 0) (ip := 0) hrows (rest := rest) rfl 0
  rwa [Nat.add_zero, decodeRowPlanes_zero, Except.map, List.append_nil, Nat.zero_add] at h

/-- The encoding of fewer row-planes: the next one faults at the end of the input, with no byte of it produced (R170). -/
theorem decodeRowPlanes_encoded_short {g : Geometry} {rows : List (List Byte)}
    (hrows : ∀ r ∈ rows, r.length = g.rowBytes) (hB : 0 < g.rowBytes) (n : Nat) :
    decodeRowPlanes g (rows.flatMap rleEncode) (rows.length + (n + 1)) 0 0
      = .error (rowFault g rows.length ⟨.rleTruncated, (rows.flatMap rleEncode).length, 0, 0⟩) := by
  have hin : (rows.flatMap rleEncode).drop 0 = rows.flatMap rleEncode ++ [] := (List.append_nil _).symm
  have hend : decodeRowPlane g (rows.flatMap rleEncode) g.rowBytes (rows.flatMap rleEncode).length []
      = .error ⟨.rleTruncated, (rows.flatMap rleEncode).length, 0, 0⟩ := by
    obtain ⟨fuel, hfuel⟩ : ∃ k, g.rowBytes = k + 1 := ⟨g.rowBytes - 1, by omega⟩
    rw [hfuel]
    exact decodeRowPlane_step_error (row := []) hB (decodeOp_end le_rfl ..) fuel
  rw [decodeRowPlanes_flatMap_rleEncode hrows hin, Nat.zero_add, Nat.zero_add, decodeRowPlanes_succ_error hend]
  rfl

/-! ### An encoded frame -/

theorem flatMap_rleEncode_framePlanes (g : Geometry) (d : List Byte) (n : Nat) :
    (framePlanes g d n).flatMap rleEncode
      = (List.range n).flatMap fun q => rleEncode (gather g d (q / g.planes) (q % g.planes)) :=
  List.flatMap_map ..

/-- An encoded frame is the encodings of its row-planes, laid end to end (R162, R163). -/
theorem encodeFrame_eq (g : Geometry) (d : List Byte) :
    encodeFrame g d = (framePlanes g d g.rowPlanes).flatMap rleEncode :=
  (encodeFrame_eq_flatMap g d).trans (flatMap_rleEncode_framePlanes ..).symm

/-- The row-planes of a frame are read from its encoding, and the pointer stops behind it. -/
theorem decodeRowPlanes_encodeFrame (g : Geometry) (d rest : List Byte) :
    decodeRowPlanes g (encodeFrame g d ++ rest) g.rowPlanes 0 0
      = .ok ((encodeFrame g d).length, framePlanes g d g.rowPlanes) := by
  have h := decodeRowPlanes_encoded (g := g) (rows := framePlanes g d g.rowPlanes)
    (fun r => length_of_mem_framePlanes) rest
  rwa [length_framePlanes, ← encodeFrame_eq] at h

theorem decodeFrame_encodeFrame {g : Geometry} (hg : g.wf = true) {d : List Byte} (hd : d.length = g.rawBytes) :
    decodeFrame g (encodeFrame g d) = .ok d := by
  have h := decodeRowPlanes_encodeFrame g d []
  rw [List.append_nil] at h
  rw [decodeFrame_of_ok h le_rfl, assemblePlanes_framePlanes hg hd]

/-- Settles O48: the loop reads the frame's row-planes one by one and ends with its input, and they make the frame. -/
theorem frameDecodeOfFrameEncodeIsTheFrame : Obligations.FrameDecodeOfFrameEncodeIsTheFrame :=
  fun _ _ hg hd => decodeFrame_encodeFrame hg hd

theorem decodeFrame_encodeFrame_append (g : Geometry) (d : List Byte) {extra : List Byte} (hextra : extra ≠ []) :
    decodeFrame g (encodeFrame g d ++ extra) = .error (trailingFault g (encodeFrame g d).length) := by
  have hpos := List.length_pos_iff.mpr hextra
  exact decodeFrame_of_trailing (decodeRowPlanes_encodeFrame g d extra) (by rw [List.length_append]; omega)

/-- Settles O49: with bytes left the pointer stands before the first of them, and with row-planes missing the next one
finds the end of the input. -/
theorem streamsTooLongOrTooShortFault : Obligations.StreamsTooLongOrTooShortFault := by
  refine fun g d hg _ => ⟨fun extra => decodeFrame_encodeFrame_append g d, fun q hq => ?_⟩
  obtain ⟨n, hn⟩ : ∃ n, g.rowPlanes = q + (n + 1) := ⟨g.rowPlanes - q - 1, by omega⟩
  have h := decodeRowPlanes_encoded_short (g := g) (rows := framePlanes g d q)
    (fun r => length_of_mem_framePlanes) (Geometry.rowBytes_pos hg) n
  rw [length_framePlanes, ← hn, flatMap_rleEncode_framePlanes] at h
  exact decodeFrame_of_error h

end Sys2Proof.Machine
end

section
/-! The bounds of an encoded frame, the frame of equal bytes, ENCFRAME and DECFRAME (43_frame_codec.md R165, R166, R169, R172,
R173). -/

namespace Sys2Proof.Machine

/-! ### Bounds -/

theorem le_length_flatMap {α β : Type} (f : α → List β) (n : Nat) (l : List α) (h : ∀ a ∈ l, n ≤ (f a).length) :
    l.length * n ≤ (l.flatMap f).length := by
  rw [List.length_flatMap]
  simpa using List.card_nsmul_le_sum (l.map fun a => (f a).length) n (by simpa using h)

/-- Each of the N row-planes takes at least two bytes (R148, R165). -/
theorem two_mul_rowPlanes_le_length_encodeFrame {g : Geometry} (hg : g.wf = true) (d : List Byte) :
    2 * g.rowPlanes ≤ (encodeFrame g d).length := by
  have h := le_length_flatMap rleEncode 2 (framePlanes g d g.rowPlanes) fun r hr =>
    two_le_length_rleEncode ((length_of_mem_framePlanes hr).symm ▸ Geometry.rowBytes_pos hg)
  rwa [← encodeFrame_eq, length_framePlanes, Nat.mul_comm] at h

/-- Each of the N row-planes takes at most R148's bound for B bytes (R165). -/
theorem length_encodeFrame_le_of_short {g : Geometry} (hB : g.rowBytes ≤ 128) (d : List Byte) :
    (encodeFrame g d).length ≤ g.rowPlanes * ((4 * g.rowBytes + 2) / 3) := by
  have h := length_flatMap_le rleEncode ((4 * g.rowBytes + 2) / 3) (framePlanes g d g.rowPlanes) fun r hr => by
    have hr := length_of_mem_framePlanes hr
    exact hr ▸ length_rleEncode_le_of_short (hr.trans_le hB)
  rwa [← encodeFrame_eq, length_framePlanes] at h

/-! ### The frame of equal bytes -/

/-- A run of 2 to 129 bytes, alone, is one FILL (R145). -/
theorem rleEncode_replicate {n : Nat} (h2 : 2 ≤ n) (h129 : n ≤ 129) (v : Byte) :
    rleEncode (List.replicate n v) = [BitVec.ofNat 8 (257 - n), v] := by
  have hscan := encodeScan_run (b := v) (rest := []) h2 nofun le_rfl []
  rw [List.append_nil, List.length_nil, Nat.add_zero] at hscan
  have hchunk : fillChunk n = n := by
    unfold fillChunk
    split_ifs <;> omega
  have hprog : rleProgram (List.replicate n v) = [.fill n v] := by
    rw [rleProgram, List.length_replicate, hscan, emitFill_of_pos v (by omega), hchunk, Nat.sub_self]
    rfl
  rw [rleEncode, hprog]
  rfl

theorem gather_replicate {g : Geometry} (hg : g.wf = true) {y z : Nat} (hy : y < g.h) (hz : z < g.planes) (v : Byte) :
    gather g (List.replicate g.rawBytes v) y z = List.replicate g.rowBytes v := by
  refine eq_of_getD_eq 0 (by simp) fun j hj => ?_
  rw [List.length_replicate] at hj
  rw [getD_gather g _ y z hj, List.getD_replicate _ (Geometry.rpaddr_lt hg hy hz hj), List.getD_replicate _ hj]

theorem framePlanes_replicate {g : Geometry} (hg : g.wf = true) (v : Byte) :
    framePlanes g (List.replicate g.rawBytes v) g.rowPlanes
      = List.replicate g.rowPlanes (List.replicate g.rowBytes v) := by
  refine List.eq_replicate_iff.mpr ⟨length_framePlanes .., fun r hr => ?_⟩
  obtain ⟨q, hq, rfl⟩ := List.mem_map.mp hr
  exact gather_replicate hg (Geometry.scanlineOf_lt (List.mem_range.mp hq)) (Geometry.planeOf_lt g q) v

/-- Settles O50: every row-plane of the frame is one run, and no row-plane takes fewer than two bytes. -/
theorem uniformFrameIsOneFillPerRowPlane : Obligations.UniformFrameIsOneFillPerRowPlane := by
  refine fun g v hg hB => ⟨?_, two_mul_rowPlanes_le_length_encodeFrame hg⟩
  have hpos := Geometry.rowBytes_pos hg
  have heven := Geometry.rowBytes_eq hg
  rw [encodeFrame_eq, framePlanes_replicate hg, List.flatMap_def, List.map_replicate,
    rleEncode_replicate (by omega) hB]

/-! ### ENCFRAME -/

theorem exec_encframe_eq (s : State) : exec .encframe s = .next (issueFrame encframeBody s) := rfl

/-- The lengths of an encoded frame: 1600 to 43200 bytes under PI1, 800 to 42800 under PI2 and PI3 (R165). -/
theorem length_encodeFrame_bounds {cfg : BitVec 2} {g : Geometry} (h : geometryOf cfg = some g) (d : List Byte) :
    (cfg = 0 → 1600 ≤ (encodeFrame g d).length ∧ (encodeFrame g d).length ≤ 43200) ∧
      (cfg ≠ 0 → 800 ≤ (encodeFrame g d).length ∧ (encodeFrame g d).length ≤ 42800) := by
  have hlower := two_mul_rowPlanes_le_length_encodeFrame (geometryOf_wf h) d
  have hB : g.rowBytes ≤ 128 :=
    geometryOf_forall (p := fun g => g.rowBytes ≤ 128) (by decide) (by decide) (by decide) h
  have hupper := length_encodeFrame_le_of_short hB d
  obtain ⟨rfl, hg⟩ | ⟨rfl, hg⟩ | ⟨rfl, hg⟩ | ⟨rfl, hg⟩ := geometryOf_cases cfg <;> cases hg.symm.trans h
  · simp only [geometryPI1_parameters] at hlower hupper
    exact ⟨fun _ => by omega, fun hne => absurd rfl hne⟩
  · simp only [geometryPI2_parameters] at hlower hupper
    exact ⟨fun heq => absurd heq (by decide), fun _ => by omega⟩
  · simp only [geometryPI3_parameters] at hlower hupper
    exact ⟨fun heq => absurd heq (by decide), fun _ => by omega⟩

/-- Settles O51: the two branches of issuing ENCFRAME; an encoded frame is short enough for STR_LEN to hold its length. -/
theorem encframeFollowsItsRule : Obligations.EncframeFollowsItsRule := by
  intro s hs
  refine ⟨fun hcfg => ?_, fun g hg => ?_⟩
  · rw [exec_encframe_eq, issueFrame_reserved hs (hcfg ▸ geometryOf_three), State.raisePlain]
  · rw [exec_encframe_eq, issueFrame_ready hs hg, encframeBody, State.planeBytes]
    have hcap := length_encodeFrame_le_strCap hg (s.pln.readRange 32000)
    have hbounds := length_encodeFrame_bounds hg (s.pln.readRange 32000)
    generalize encodeFrame g (s.pln.readRange 32000) = e at hcap hbounds ⊢
    have hlen : (BitVec.ofNat 17 e.length).toNat = e.length := Nat.mod_eq_of_lt (hcap.trans_lt (by decide))
    refine ⟨_, rfl, Memory.holds_writeRange _ _, hlen, ?_, ?_, by simp, by simp, rfl⟩
    · exact hlen.symm ▸ hbounds.1
    · exact hlen.symm ▸ hbounds.2

/-! ### DECFRAME -/

theorem exec_decframe_eq (s : State) : exec .decframe s = .next (issueFrame decframeBody s) := rfl

/-- The end of a DECFRAME whose decoder answers `r`: its fault, or PLN and STATUS (R169). -/
def endDecframe (r : Except FaultRecord (List Byte)) (s : State) : State :=
  match r with
  | .error f => failFrame f s
  | .ok d => finishDecframe d s

theorem endDecframe_error (f : FaultRecord) (s : State) : endDecframe (.error f) s = failFrame f s := rfl

theorem endDecframe_ok (d : List Byte) (s : State) : endDecframe (.ok d) s = finishDecframe d s := rfl

theorem decframeBody_badStrLen {s : State} (h : ¬ s.strLenLegal = true) (g : Geometry) :
    decframeBody g s = s.raise ⟨.badLength, 0, 0, 0, 0, s.strLen.toNat⟩ := by
  rw [decframeBody, if_neg h, State.raisePlain]

theorem decframeBody_legal {s : State} (h : s.strLenLegal = true) (g : Geometry) :
    decframeBody g s = endDecframe (decodeFrame g s.streamBytes) s := by
  rw [decframeBody, if_pos h]
  rfl

/-- DECFRAME outside FAILED, under a geometry and with a legal length, is the frame decoder on STR[0..STR_LEN) (R169). -/
theorem exec_decframe_legal {s : State} {g : Geometry} (hs : s.status ≠ .failed) (hg : geometryOf s.cfgFmt = some g)
    (hlen : s.strLen.toNat ≤ 64000) :
    exec .decframe s = .next (endDecframe (decodeFrame g s.streamBytes) s) := by
  rw [exec_decframe_eq, issueFrame_ready hs hg, decframeBody_legal (State.strLenLegal_iff.mpr hlen)]

/-- The frame decoder faults in the three RLE causes and in nothing else (R167). -/
theorem decodeFrame_error_cause {g : Geometry} {inp : List Byte} {f : FaultRecord} (h : decodeFrame g inp = .error f) :
    f.cause = .rleOverflow ∨ f.cause = .rleTruncated ∨ f.cause = .rleTrailing := by
  obtain ⟨q, e, -, rfl, -, hat | ⟨hcut, -⟩⟩ | ⟨ip, -, rfl⟩ := decodeFrame_error h
  · obtain ⟨⟨hcause, -⟩ | ⟨hcause, -⟩, -⟩ := hat
    · exact .inl hcause
    · exact .inr (.inl hcause)
  · exact .inr (.inl hcut)
  · exact .inr (.inr rfl)

/-- Settles O52: the branches of issuing DECFRAME, of its length check and of the frame decoder's answer. -/
theorem decframeFollowsItsRule : Obligations.DecframeFollowsItsRule := by
  intro s hs
  refine ⟨fun hcfg => ?_, fun g hg => ⟨fun hlen => ?_, fun hlen => ⟨fun f hf => ?_, fun d hd => ?_⟩⟩⟩
  · rw [exec_decframe_eq, issueFrame_reserved hs (hcfg ▸ geometryOf_three), State.raisePlain]
  · have hbad : ¬ s.strLenLegal = true := by rw [State.strLenLegal_iff]; omega
    rw [exec_decframe_eq, issueFrame_ready hs hg, decframeBody_badStrLen hbad]
  · rw [exec_decframe_legal hs hg hlen, State.streamBytes, hf, endDecframe_error, failFrame_eq]
    exact ⟨_, rfl, decodeFrame_error_cause hf, by simp, by simp, by simp, rfl⟩
  · rw [exec_decframe_legal hs hg hlen, State.streamBytes, hd, endDecframe_ok]
    exact ⟨_, rfl, (length_decodeFrame hd).trans (geometryOf_rawBytes hg), Memory.holds_writeRange _ _,
      by simp, by simp, rfl⟩

/-- Settles O53: ENCFRAME leaves the encoding of PLN in STR[0..STR_LEN), which DECFRAME decodes and writes back. -/
theorem decframeUndoesEncframe : Obligations.DecframeUndoesEncframe := by
  intro s g hs hg
  obtain ⟨t, ht, hstr, hlen, -, -, -, -, hframe⟩ := (encframeFollowsItsRule s hs).2 g hg
  have hdone : t.status = .done := by rw [hframe]
  have hcfg : t.cfgFmt = s.cfgFmt := by rw [hframe]
  have hpln : t.pln = s.pln := by rw [hframe]
  have hlegal : t.strLen.toNat ≤ 64000 := hlen.trans_le (length_encodeFrame_le_strCap hg _)
  have hraw : (s.pln.readRange 32000).length = g.rawBytes := by
    rw [Memory.length_readRange, geometryOf_rawBytes hg]
  have hdec : decodeFrame g (t.str.readRange t.strLen.toNat) = .ok (s.pln.readRange 32000) := by
    rw [hstr.readRange_eq hlen.symm, decodeFrame_encodeFrame (geometryOf_wf hg) hraw]
  obtain ⟨u, hu, -, hbytes, -, -, hframe'⟩ :=
    (((decframeFollowsItsRule t (by simp [hdone])).2 g (hcfg ▸ hg)).2 hlegal).2 _ hdec
  refine ⟨t, u, ht, hu, by rw [hframe'], ?_⟩
  rw [hpln] at hbytes
  exact hbytes.sameReads

end Sys2Proof.Machine
end

section
/-! DECFRAME run opcode by opcode (43_frame_codec.md R167 to R171, log entry 4). -/

namespace Sys2Proof.Machine

/-! ### Runs -/

/-- Some number of steps leads from `s` to `t`. -/
def Reaches (s t : State) : Prop := ∃ k, Sys2Proof.core.run k s = .next t

theorem Reaches.refl (s : State) : Reaches s s := ⟨0, rfl⟩

theorem Reaches.head {s t u : State} (h : step s = .next t) (htu : Reaches t u) : Reaches s u := by
  obtain ⟨k, hk⟩ := htu
  exact ⟨k + 1, (core_run_succ h k).trans hk⟩

theorem Reaches.single {s t : State} (h : step s = .next t) : Reaches s t := .head h (.refl t)

/-- A run that takes `k` steps to `t` goes on as one from `t`. -/
theorem core_run_add {s t : State} {k : Nat} (h : Sys2Proof.core.run k s = .next t) (n : Nat) :
    Sys2Proof.core.run (k + n) s = Sys2Proof.core.run n t := by
  induction k generalizing s with
  | zero =>
    cases h
    rw [Nat.zero_add]
  | succ k ih =>
    cases hs : step s with
    | next s' =>
      rw [core_run_succ hs] at h
      rw [Nat.add_right_comm, core_run_succ hs, ih h]
    | fault r => cases r
    | refused r =>
      have hstep : Sys2Proof.core.step s = .refused r := hs
      simp [Host.Core.run, hstep] at h

theorem Reaches.trans {s t u : State} (h : Reaches s t) (htu : Reaches t u) : Reaches s u := by
  obtain ⟨k, hk⟩ := h
  obtain ⟨n, hn⟩ := htu
  exact ⟨k + n, (core_run_add hk n).trans hn⟩

/-! ### A step inside DECFRAME -/

/-- The inside of a DECFRAME with stream pointer `ip`, the bytes `row` of the current row-plane and the row-planes `rows`
complete (R167, log entry 4). -/
def State.insideDecframe (s : State) (g : Geometry) (ip : Nat) (row : List Byte) (rows : List (List Byte)) : State :=
  { s with dec := some { geom := some g, ip := ip, row := row, rows := rows } }

theorem State.beginDecframe_eq (s : State) (g : Geometry) : s.beginDecframe g = s.insideDecframe g 0 [] [] := rfl

/-- A DECFRAME ends the same way from its inside, when the decoder is then dropped, as from the state it was issued in. -/
theorem endDecframe_insideDecframe {s : State} (hdec : s.dec = none) (g : Geometry) (ip : Nat) (row : List Byte)
    (rows : List (List Byte)) (r : Except FaultRecord (List Byte)) :
    { endDecframe r (s.insideDecframe g ip row rows) with dec := none } = endDecframe r s := by
  cases r with
  | error f => exact State.clearDec_eq (s := failFrame f s) hdec
  | ok d => exact State.clearDec_eq (s := finishDecframe d s) hdec

section

variable {s : State} {g : Geometry} {ip : Nat} {row : List Byte} {rows : List (List Byte)}

/-- While the current row-plane lacks bytes, a step inside DECFRAME is the opcode step at ip (R121, R167). -/
theorem step_insideDecframe (hrows : rows.length < g.rowPlanes) (hrow : row.length < g.rowBytes) :
    step (s.insideDecframe g ip row rows) =
      .next (Decoder.advance ⟨some g, ip, row, rows⟩ (decodeOp s.streamBytes ip row.length g.rowBytes)
        (s.insideDecframe g ip row rows)) := by
  rw [step_inside rfl]
  exact ((if_pos hrows).trans (if_pos hrow)).trans (Decoder.fetchAndRun_exec rfl)

theorem step_insideDecframe_ok {ip' : Nat} {bytes : List Byte} (hrows : rows.length < g.rowPlanes)
    (hrow : row.length < g.rowBytes) (h : decodeOp s.streamBytes ip row.length g.rowBytes = .ok (ip', bytes)) :
    step (s.insideDecframe g ip row rows) = .next (s.insideDecframe g ip' (row ++ bytes) rows) := by
  rw [step_insideDecframe hrows hrow, h]
  rfl

theorem step_insideDecframe_error {e : StreamFault} (hdec : s.dec = none) (hrows : rows.length < g.rowPlanes)
    (hrow : row.length < g.rowBytes) (h : decodeOp s.streamBytes ip row.length g.rowBytes = .error e) :
    step (s.insideDecframe g ip row rows) = .next (endDecframe (.error (rowFault g rows.length e)) s) := by
  rw [step_insideDecframe hrows hrow, h, Decoder.advance_error, Decoder.fail_frame rfl,
    ← endDecframe_insideDecframe hdec g ip row rows]
  rfl

/-- When the B bytes of the current row-plane are complete, a step moves to the next one (R162, R168). -/
theorem step_insideDecframe_full (hrows : rows.length < g.rowPlanes) (hrow : g.rowBytes ≤ row.length) :
    step (s.insideDecframe g ip row rows) = .next (s.insideDecframe g ip [] (rows ++ [row])) := by
  rw [step_inside rfl]
  exact (if_pos hrows).trans (if_neg (Nat.not_lt.mpr hrow))

/-- When all row-planes are complete, a step with input left ends the command in RLE_TRAILING (R171). -/
theorem step_insideDecframe_trailing (hdec : s.dec = none) (hrows : g.rowPlanes ≤ rows.length)
    (hip : ip < s.streamBytes.length) :
    step (s.insideDecframe g ip row rows) = .next (endDecframe (.error (trailingFault g ip)) s) := by
  rw [step_inside rfl, ← endDecframe_insideDecframe hdec g ip row rows]
  exact (if_neg (Nat.not_lt.mpr hrows)).trans (if_pos hip)

/-- When all row-planes are complete and the input is too, a step completes the command (R167, R169). -/
theorem step_insideDecframe_end (hdec : s.dec = none) (hrows : g.rowPlanes ≤ rows.length)
    (hend : s.streamBytes.length ≤ ip) :
    step (s.insideDecframe g ip row rows) = .next (endDecframe (.ok (assemblePlanes g rows)) s) := by
  rw [step_inside rfl, ← endDecframe_insideDecframe hdec g ip row rows]
  exact (if_neg (Nat.not_lt.mpr hrows)).trans (if_neg (Nat.not_lt.mpr hend))

end

/-! ### The decoder's loops as runs -/

/-- Where the steps inside DECFRAME lead from a row-plane whose decoding answers `r`: to the beginning of the next
row-plane, or to the end of the command. -/
def afterRowPlane (s : State) (g : Geometry) (rows : List (List Byte)) (r : Except StreamFault (Nat × List Byte)) :
    State :=
  match r with
  | .error e => endDecframe (.error (rowFault g rows.length e)) s
  | .ok (ip, row) => s.insideDecframe g ip [] (rows ++ [row])

/-- From any point of a row-plane the steps lead where its loop does: one step for each opcode, and one for the change of
row-planes. -/
theorem reaches_afterRowPlane {s : State} {g : Geometry} (hdec : s.dec = none) {rows : List (List Byte)}
    (hrows : rows.length < g.rowPlanes) {fuel : Nat} {row : List Byte} (hfuel : g.rowBytes ≤ row.length + fuel)
    (ip : Nat) :
    Reaches (s.insideDecframe g ip row rows)
      (afterRowPlane s g rows (decodeRowPlane g s.streamBytes fuel ip row)) := by
  induction fuel generalizing ip row with
  | zero => exact .single (step_insideDecframe_full hrows hfuel)
  | succ fuel ih =>
    rcases Nat.lt_or_ge row.length g.rowBytes with hrow | hfull
    · cases hop : decodeOp s.streamBytes ip row.length g.rowBytes with
      | error e =>
        rw [decodeRowPlane_step_error hrow hop]
        exact .single (step_insideDecframe_error hdec hrows hrow hop)
      | ok r =>
        obtain ⟨ip', bytes⟩ := r
        obtain ⟨-, -, -, hpos, -⟩ := decodeOp_ok hop
        rw [decodeRowPlane_step_ok hop]
        exact .head (step_insideDecframe_ok hrows hrow hop) (ih (by rw [List.length_append]; omega) ip')
    · rw [decodeRowPlane_full hfull]
      exact .single (step_insideDecframe_full hrows hfull)

/-- Where the steps inside DECFRAME lead from the beginning of a row-plane when those still to come decode to `r`: past the
last row-plane, or to the end of the command. -/
def afterRowPlanes (s : State) (g : Geometry) (rows : List (List Byte))
    (r : Except FaultRecord (Nat × List (List Byte))) : State :=
  match r with
  | .error f => endDecframe (.error f) s
  | .ok (ip, rows') => s.insideDecframe g ip [] (rows ++ rows')

/-- A row-plane decoded first of those still to come is one more that is complete. -/
theorem afterRowPlanes_map_cons (s : State) (g : Geometry) (rows : List (List Byte)) (row : List Byte)
    (r : Except FaultRecord (Nat × List (List Byte))) :
    afterRowPlanes s g rows (r.map fun p => (p.1, row :: p.2)) = afterRowPlanes s g (rows ++ [row]) r := by
  cases r with
  | error f => rfl
  | ok p => simp [Except.map, afterRowPlanes]

/-- From the beginning of a row-plane the steps lead where the loop over the row-planes still to come does. -/
theorem reaches_afterRowPlanes {s : State} {g : Geometry} (hdec : s.dec = none) {n : Nat} {rows : List (List Byte)}
    (hn : rows.length + n = g.rowPlanes) (ip : Nat) :
    Reaches (s.insideDecframe g ip [] rows)
      (afterRowPlanes s g rows (decodeRowPlanes g s.streamBytes n rows.length ip)) := by
  induction n generalizing rows ip with
  | zero =>
    rw [decodeRowPlanes_zero, afterRowPlanes, List.append_nil]
    exact .refl _
  | succ n ih =>
    have hrow := reaches_afterRowPlane (fuel := g.rowBytes) (row := []) hdec (by omega : rows.length < g.rowPlanes)
      (Nat.le_add_left ..) ip
    cases hdecoded : decodeRowPlane g s.streamBytes g.rowBytes ip [] with
    | error e =>
      rw [hdecoded] at hrow
      rw [decodeRowPlanes_succ_error hdecoded]
      exact hrow
    | ok r =>
      obtain ⟨ip', row⟩ := r
      rw [hdecoded] at hrow
      have hrest := ih (rows := rows ++ [row]) (by rw [List.length_append, List.length_singleton]; omega) ip'
      rw [decodeRowPlanes_succ_ok hdecoded, afterRowPlanes_map_cons]
      rw [List.length_append, List.length_singleton] at hrest
      exact hrow.trans hrest

/-- The steps from the beginning of a DECFRAME end as the frame decoder does (R167). -/
theorem reaches_endDecframe {s : State} (hdec : s.dec = none) (g : Geometry) :
    Reaches (s.beginDecframe g) (endDecframe (decodeFrame g s.streamBytes) s) := by
  have hloop := reaches_afterRowPlanes (g := g) (rows := []) hdec (Nat.zero_add _) 0
  rw [State.beginDecframe_eq]
  rw [List.length_nil] at hloop
  cases hdecoded : decodeRowPlanes g s.streamBytes g.rowPlanes 0 0 with
  | error f =>
    rw [hdecoded] at hloop
    rw [decodeFrame_of_error hdecoded]
    exact hloop
  | ok r =>
    obtain ⟨ip, rows⟩ := r
    have hrows := (length_of_decodeRowPlanes_ok hdecoded).ge
    rw [hdecoded] at hloop
    refine hloop.trans ?_
    rcases Nat.lt_or_ge ip s.streamBytes.length with hip | hend
    · rw [decodeFrame_of_trailing hdecoded hip]
      exact .single (step_insideDecframe_trailing hdec hrows hip)
    · rw [decodeFrame_of_ok hdecoded hend]
      exact .single (step_insideDecframe_end hdec hrows hend)

/-- Settles O54: the simulation of the frame decoder's loops by the steps inside DECFRAME, from the beginning of the
input. -/
theorem decframeIsItsOpcodesOneByOne : Obligations.DecframeIsItsOpcodesOneByOne := by
  intro s g hdec hs hg hlen
  rw [exec_decframe_legal hs hg hlen]
  exact reaches_endDecframe hdec g

end Sys2Proof.Machine
end

section
/-! A command ends, in one step, DONE with FAULT as it was or FAILED with a cause (44_host_interface.md R185, R186, R188,
R191), and BAD_CONFIG is such an end. -/

namespace Sys2Proof.Machine

/-! ### The two ends of a command -/

/-- `t` is the end of a command issued in `s`: DONE with FAULT as it was, or FAILED with a cause (R23, R24). -/
def EndsDoneOrFailed (s t : State) : Prop :=
  (t.status = .done ∧ t.fault = s.fault) ∨ (t.status = .failed ∧ t.fault ≠ .none)

theorem endsDoneOrFailed_markDone {s t : State} (h : t.fault = s.fault) : EndsDoneOrFailed s t.markDone :=
  .inl ⟨rfl, h⟩

/-- A fault that has a cause is an end, whatever was made unspecified before it was taken (R206). -/
theorem endsDoneOrFailed_raise (s t : State) {f : FaultRecord} (hf : f.cause ≠ .none) : EndsDoneOrFailed s (t.raise f) :=
  .inr ⟨rfl, hf⟩

/-! ### The body of each command -/

theorem endsDoneOrFailed_packBody (g : Geometry) (s : State) : EndsDoneOrFailed s (packBody g s) := by
  cases h : firstBadCell g s.idx with
  | none =>
    rw [packBody_good h]
    exact endsDoneOrFailed_markDone rfl
  | some bad =>
    obtain ⟨y, x, v⟩ := bad
    rw [packBody_bad h]
    exact endsDoneOrFailed_raise s s (by simp)

theorem endsDoneOrFailed_unpackBody (g : Geometry) (s : State) : EndsDoneOrFailed s (unpackBody g s) :=
  endsDoneOrFailed_markDone rfl

theorem endsDoneOrFailed_encrowBody (s : State) : EndsDoneOrFailed s (encrowBody s) := by
  by_cases hrow : s.rowLenLegal = true
  · rw [encrowBody_legal hrow]
    exact endsDoneOrFailed_markDone rfl
  · rw [encrowBody_badRowLen hrow]
    exact endsDoneOrFailed_raise s s (by simp)

theorem endsDoneOrFailed_decrowBody (s : State) : EndsDoneOrFailed s (decrowBody s) := by
  by_cases hrow : s.rowLenLegal = true
  · by_cases hcrow : s.crowLenLegal = true
    · rw [decrowBody_legal hrow hcrow]
      cases h : rleDecode s.codedRow s.rowLen.toNat with
      | error e => exact endsDoneOrFailed_raise s s.forgetRow (rleDecode_error_cause_ne_none h)
      | ok out => exact endsDoneOrFailed_markDone rfl
    · rw [decrowBody_badCrowLen hrow hcrow]
      exact endsDoneOrFailed_raise s s (by simp)
  · rw [decrowBody_badRowLen hrow]
    exact endsDoneOrFailed_raise s s (by simp)

theorem endsDoneOrFailed_encframeBody (g : Geometry) (s : State) : EndsDoneOrFailed s (encframeBody g s) :=
  endsDoneOrFailed_markDone rfl

theorem endsDoneOrFailed_decframeBody (g : Geometry) (s : State) : EndsDoneOrFailed s (decframeBody g s) := by
  by_cases hstr : s.strLenLegal = true
  · rw [decframeBody_legal hstr]
    cases h : decodeFrame g s.streamBytes with
    | error f => exact endsDoneOrFailed_raise s s.forgetFrame (decodeFrame_error_cause_ne_none h)
    | ok d => exact endsDoneOrFailed_markDone rfl
  · rw [decframeBody_badStrLen hstr]
    exact endsDoneOrFailed_raise s s (by simp)

/-! ### Issuing a command -/

theorem endsDoneOrFailed_issueRow {body : State → State} {s : State} (hs : s.status ≠ .failed)
    (hbody : EndsDoneOrFailed s (body s)) : EndsDoneOrFailed s (issueRow body s) := by
  rwa [issueRow_ready hs]

theorem endsDoneOrFailed_issueFrame {body : Geometry → State → State} {s : State} (hs : s.status ≠ .failed)
    (hbody : ∀ g, EndsDoneOrFailed s (body g s)) : EndsDoneOrFailed s (issueFrame body s) := by
  cases hg : geometryOf s.cfgFmt with
  | none =>
    rw [issueFrame_reserved hs hg]
    exact endsDoneOrFailed_raise s s (by simp)
  | some g =>
    rw [issueFrame_ready hs hg]
    exact hbody g

/-- Settles O18: each command's body ends in `markDone` or in a fault with a cause, and so does BAD_CONFIG before it. -/
theorem everyCommandEndsDoneOrFailed : Obligations.EveryCommandEndsDoneOrFailed := by
  intro s i hi hs
  cases i with
  | copy lits => cases hi
  | fill n v => cases hi
  | pack => exact ⟨_, rfl, endsDoneOrFailed_issueFrame hs fun g => endsDoneOrFailed_packBody g s⟩
  | unpack => exact ⟨_, rfl, endsDoneOrFailed_issueFrame hs fun g => endsDoneOrFailed_unpackBody g s⟩
  | encrow => exact ⟨_, rfl, endsDoneOrFailed_issueRow hs (endsDoneOrFailed_encrowBody s)⟩
  | decrow => exact ⟨_, rfl, endsDoneOrFailed_issueRow hs (endsDoneOrFailed_decrowBody s)⟩
  | encframe => exact ⟨_, rfl, endsDoneOrFailed_issueFrame hs fun g => endsDoneOrFailed_encframeBody g s⟩
  | decframe => exact ⟨_, rfl, endsDoneOrFailed_issueFrame hs fun g => endsDoneOrFailed_decframeBody g s⟩

/-- Settles O17: while CFG_FMT is 3 it selects no geometry, and a geometry command stops before its body (R185 step 3). -/
theorem reservedGeometryFaults : Obligations.ReservedGeometryFaults := by
  intro s i hi hs hcfg
  have hissue (body : Geometry → State → State) : issueFrame body s = s.raisePlain .badConfig 3 :=
    issueFrame_reserved hs (hcfg ▸ geometryOf_three)
  rcases hi with rfl | rfl | rfl | rfl
  · exact congrArg Host.Outcome.next (hissue packBody)
  · exact congrArg Host.Outcome.next (hissue unpackBody)
  · exact congrArg Host.Outcome.next (hissue encframeBody)
  · exact congrArg Host.Outcome.next (hissue decframeBody)

end Sys2Proof.Machine
end

section
/-! What each host action answers, and what a read returns after a write (44_host_interface.md R180 to R187). -/

namespace Sys2Proof.Machine

/-! ### The cells -/

/-- A written cell reads as v mod 16 in IDX and as v mod 256 elsewhere (R182). -/
theorem State.readCell_writeCell_same (s : State) (sp : Space) (a v : Nat) :
    (s.writeCell sp a v).readCell sp a = if sp = .idx then v % 16 else v % 256 := by
  cases sp <;> simp [State.readCell, State.writeCell]

theorem State.readCell_writeCell_ne_addr (s : State) (sp : Space) {a b : Nat} (h : b ≠ a) (v : Nat) :
    (s.writeCell sp a v).readCell sp b = s.readCell sp b := by
  cases sp <;> exact congrArg BitVec.toNat (Memory.read_write_ne _ h _)

theorem State.readCell_writeCell_ne_space (s : State) {sp sp' : Space} (h : sp' ≠ sp) (a b v : Nat) :
    (s.writeCell sp a v).readCell sp' b = s.readCell sp' b := by
  cases sp <;> cases sp' <;> simp [State.readCell, State.writeCell] at h ⊢

theorem State.readCell_writeCell_ne (s : State) {sp sp' : Space} {a b : Nat} (h : (sp', b) ≠ (sp, a)) (v : Nat) :
    (s.writeCell sp a v).readCell sp' b = s.readCell sp' b := by
  by_cases hsp : sp' = sp
  · subst hsp
    exact s.readCell_writeCell_ne_addr sp' (fun hb => h (congrArg _ hb)) v
  · exact s.readCell_writeCell_ne_space hsp a b v

/-- A memory write changes nothing but the memories (R182). -/
theorem State.writeCell_eq (s : State) (sp : Space) (a v : Nat) :
    s.writeCell sp a v = { s with
      idx := (s.writeCell sp a v).idx, pln := (s.writeCell sp a v).pln, str := (s.writeCell sp a v).str
      rpb := (s.writeCell sp a v).rpb, cpb := (s.writeCell sp a v).cpb } := by
  cases sp <;> rfl

/-! ### The registers -/

/-- The numbers 0 to 12 name the registers (R181). -/
theorem State.exists_readReg (s : State) {r : Nat} (h : r ≤ 12) : ∃ v, s.readReg r = some v := by
  interval_cases r <;> exact ⟨_, rfl⟩

theorem State.readReg_eq_none (s : State) {r : Nat} (h : 12 < r) : s.readReg r = none := by
  unfold State.readReg
  split
  case h_14 => rfl
  all_goals omega

/-- What an RW register of width `w` holds after a write that is its own when `p` holds: v mod 2^w, else what it held. -/
theorem toNat_ite_setWidth {w : Nat} (p : Prop) [Decidable p] (v : BitVec 32) (x : BitVec w) :
    (if p then v.setWidth w else x).toNat = if p then v.toNat % 2 ^ w else x.toNat := by
  rw [apply_ite BitVec.toNat, BitVec.toNat_setWidth]

/-- A register write changes nothing but the four RW registers (R181). -/
theorem State.writeReg_eq (s : State) (r : Nat) (v : BitVec 32) :
    s.writeReg r v = { s with
      cfgFmt := (s.writeReg r v).cfgFmt, rowLen := (s.writeReg r v).rowLen
      crowLen := (s.writeReg r v).crowLen, strLen := (s.writeReg r v).strLen } := by
  unfold State.writeReg
  split <;> rfl

/-! ### The actions on registers -/

theorem performAction_readReg {r : Nat} (hr : r ≤ 12) (s : State) :
    performAction exec (.readReg r) s = .next { s with reply := s.readReg r } := by
  obtain ⟨v, hv⟩ := s.exists_readReg hr
  rw [performAction, hostReadReg, hv]

/-- A number above 12 names no register, in FAILED too (R183; log entry 7). -/
theorem performAction_readReg_unknown {r : Nat} (hr : 12 < r) (s : State) :
    performAction exec (.readReg r) s = .refused (.noSuchRegister r) := by
  rw [performAction, hostReadReg, s.readReg_eq_none hr]

theorem performAction_writeReg_unknown {r : Nat} (hr : 12 < r) (v : BitVec 32) (s : State) :
    performAction exec (.writeReg r v) s = .refused (.noSuchRegister r) :=
  if_pos hr

/-- A register write in FAILED, to CMD too, changes nothing (R184). -/
theorem performAction_writeReg_failed {r : Nat} (hr : r ≤ 12) (v : BitVec 32) {s : State} (hs : s.status = .failed) :
    performAction exec (.writeReg r v) s = .next s := by
  rw [performAction, hostWriteReg, if_neg (Nat.not_lt.mpr hr), if_pos hs]

theorem performAction_writeReg {r : Nat} (hr : r ≤ 12) (hcmd : r ≠ cmdRegister) (v : BitVec 32) {s : State}
    (hs : s.status ≠ .failed) : performAction exec (.writeReg r v) s = .next (s.writeReg r v) := by
  rw [performAction, hostWriteReg, if_neg (Nat.not_lt.mpr hr), if_neg hs, if_neg hcmd]

/-! ### The actions on memories -/

theorem performAction_readMem {sp : Space} {a : Nat} (ha : a < sp.capacity) (s : State) :
    performAction exec (.readMem sp a) s = .next { s with reply := some (s.readCell sp a) } :=
  if_pos ha

/-- A cell at or above the capacity does not exist, in FAILED too (R183; log entry 7). -/
theorem performAction_readMem_outside {sp : Space} {a : Nat} (ha : sp.capacity ≤ a) (s : State) :
    performAction exec (.readMem sp a) s = .refused (.noSuchCell sp a) :=
  if_neg (Nat.not_lt.mpr ha)

theorem performAction_writeMem_outside {sp : Space} {a : Nat} (ha : sp.capacity ≤ a) (v : Nat) (s : State) :
    performAction exec (.writeMem sp a v) s = .refused (.noSuchCell sp a) :=
  if_neg (Nat.not_lt.mpr ha)

/-- A memory write in FAILED changes nothing (R184). -/
theorem performAction_writeMem_failed {sp : Space} {a : Nat} (ha : a < sp.capacity) (v : Nat) {s : State}
    (hs : s.status = .failed) : performAction exec (.writeMem sp a v) s = .next s :=
  (if_pos ha).trans (if_pos hs)

theorem performAction_writeMem {sp : Space} {a : Nat} (ha : a < sp.capacity) (v : Nat) {s : State}
    (hs : s.status ≠ .failed) : performAction exec (.writeMem sp a v) s = .next (s.writeCell sp a v) :=
  (if_pos ha).trans (if_neg hs)

/-! ### Writes to CMD -/

/-- The byte of a value written to CMD is its value mod 256 (R185 step 2). -/
theorem toNat_commandByte (v : BitVec 32) : (commandByte v).toNat = v.toNat % 256 :=
  BitVec.toNat_setWidth 8 v

/-- The bytes 0x00 and 0x07 to 0xFF are no command codes (R89). -/
theorem decodeCommand_reserved {v : Byte} (h : v.toNat = 0 ∨ 7 ≤ v.toNat) :
    decodeCommand v = .error (.reservedCommand v) := by
  unfold decodeCommand
  split
  case h_7 => rfl
  all_goals omega

theorem performAction_writeCmd_reserved {v : BitVec 32} {e : Reject} (h : decodeCommand (commandByte v) = .error e)
    {s : State} (hs : s.status ≠ .failed) :
    performAction exec (.writeReg cmdRegister v) s = .next (s.raisePlain .badCommand (commandByte v).toNat) := by
  simp [performAction, hostWriteReg, cmdRegister, hs, issueCommand, h]

end Sys2Proof.Machine
end

section
/-! The statements about the host interface: a step is the first pending host action (44_host_interface.md R180), or the
opcode at ip inside a decoding command (log entry 4). -/

namespace Sys2Proof.Machine

/-! ### Reads and writes -/

/-- Settles O11: a read answers the cell; a write changes the one cell of the one memory. -/
theorem memoryActionsReadAndWriteOneCell : Obligations.MemoryActionsReadAndWriteOneCell := by
  intro s sp a v rest hdec ha
  refine ⟨fun hhost => ?_, fun hhost hs => ⟨(s.takeAction rest).writeCell sp a v, ?_, ?_, fun sp' b hne => ?_, ?_⟩⟩
  · exact (step_between hdec hhost).trans (performAction_readMem ha _)
  · exact (step_between hdec hhost).trans (performAction_writeMem ha v (s := s.takeAction rest) hs)
  · exact State.readCell_writeCell_same _ sp a v
  · exact State.readCell_writeCell_ne (s.takeAction rest) hne v
  · exact State.writeCell_eq (s.takeAction rest) sp a v

/-- Settles O10: a read answers the register of its number; a write is `writeReg`, whose RW registers are cut to their
widths. -/
theorem registerActionsReadAndWriteTheRegister : Obligations.RegisterActionsReadAndWriteTheRegister := by
  refine ⟨fun s r rest hdec hhost hr => ?_, fun s r v rest hdec hhost hr hcmd hs =>
    ⟨(s.takeAction rest).writeReg r v, ?_, State.writeReg_eq (s.takeAction rest) r v, ?_, ?_, ?_, ?_⟩⟩
  · obtain ⟨v, hv⟩ := s.exists_readReg hr
    refine ⟨v, ?_, ?_⟩
    · rw [← hv]
      exact (step_between hdec hhost).trans (performAction_readReg hr _)
    · -- `hv`, with the number put in for `r`, is each of the thirteen clauses.
      and_intros <;> (rintro rfl; exact (Option.some.inj hv).symm)
  · exact (step_between hdec hhost).trans (performAction_writeReg hr hcmd v (s := s.takeAction rest) hs)
  · exact (congrArg BitVec.toNat (State.writeReg_cfgFmt _ r v)).trans (toNat_ite_setWidth _ v _)
  · exact (congrArg BitVec.toNat (State.writeReg_rowLen _ r v)).trans (toNat_ite_setWidth _ v _)
  · exact (congrArg BitVec.toNat (State.writeReg_crowLen _ r v)).trans (toNat_ite_setWidth _ v _)
  · exact (congrArg BitVec.toNat (State.writeReg_strLen _ r v)).trans (toNat_ite_setWidth _ v _)

/-! ### Actions that name nothing, and writes in FAILED -/

/-- Settles O12: the existence of the register or the cell is tested before STATUS. -/
theorem actionsThatNameNothingAreRefused : Obligations.ActionsThatNameNothingAreRefused := by
  refine fun s rest hdec => ⟨fun r hr => ⟨fun hhost => ?_, fun v hhost => ?_⟩, fun sp a ha =>
    ⟨fun hhost => ?_, fun v hhost => ?_⟩⟩
  · exact (step_between hdec hhost).trans (performAction_readReg_unknown hr _)
  · exact (step_between hdec hhost).trans (performAction_writeReg_unknown hr v _)
  · exact (step_between hdec hhost).trans (performAction_readMem_outside ha _)
  · exact (step_between hdec hhost).trans (performAction_writeMem_outside ha v _)

/-- Settles O13: in FAILED a write leaves the state in which it has been taken; reads and `Reset` do not test STATUS. -/
theorem failedIgnoresEveryWrite : Obligations.FailedIgnoresEveryWrite := by
  refine fun s rest hdec hs => ⟨fun r v hr hhost => ?_, fun sp a v ha hhost => ?_, fun r hr hhost => ?_,
    fun sp a ha hhost => ?_, fun hhost => ?_⟩
  · exact (step_between hdec hhost).trans (performAction_writeReg_failed hr v (s := s.takeAction rest) hs)
  · exact (step_between hdec hhost).trans (performAction_writeMem_failed ha v (s := s.takeAction rest) hs)
  · exact (step_between hdec hhost).trans (performAction_readReg hr _)
  · exact (step_between hdec hhost).trans (performAction_readMem ha _)
  · exact ⟨_, step_between hdec hhost, State.resetRegisters_status _⟩

/-! ### Commands and opcodes -/

/-- Settles O15: a reserved byte is rejected by the command decoder, and the write to CMD faults BAD_COMMAND. -/
theorem reservedCommandCodesFault : Obligations.ReservedCommandCodesFault := by
  intro s v rest hdec hhost hs hv
  rw [← toNat_commandByte] at hv ⊢
  exact (step_between hdec hhost).trans (performAction_writeCmd_reserved (decodeCommand_reserved hv) hs)

/-- An opcode is read only where the input still has a byte. -/
theorem lt_length_of_decodeStream_drop {inp rest : List Byte} {ip : Nat} {i : Instr}
    (h : decodeStream (inp.drop ip) = .ok (i, rest)) : ip < inp.length := by
  by_contra hip
  rw [List.drop_eq_nil_of_le (Nat.le_of_not_lt hip)] at h
  cases h

/-- Inside DECROW a step is the meaning of the opcode at ip (R124, R127). -/
theorem step_insideRow {s : State} {d : Decoder} {i : Instr} {rest : List Byte} (hd : s.dec = some d)
    (hg : d.geom = none) (hdec : decodeStream (s.codedRow.drop d.ip) = .ok (i, rest)) : step s = exec i s := by
  have hip := lt_length_of_decodeStream_drop hdec
  simp [step_inside hd, Decoder.step, hg, hip, Decoder.fetchAndRun, Decoder.input, hdec]

/-- Settles O6: a command is run by the write that issues it, an opcode by the step inside its decoder. -/
theorem stepRunsTheDecodedInstruction : Obligations.StepRunsTheDecodedInstruction := by
  refine ⟨fun s v rest i hdec hhost hi => ?_, fun s d i rest hd => ⟨fun hg hi => step_insideRow hd hg hi,
    fun g hg hrows hrow hi => step_insideFrame hd hg hrows hrow hi⟩⟩
  exact (step_between hdec hhost).trans (performAction_writeCmd hi (s.takeAction rest))

end Sys2Proof.Machine
end

section
/-! Taking a fault (60_exceptions.md R206), what can still happen in FAILED (R211, R212), and the context registers that
a fault leaves (R207). -/

namespace Sys2Proof.Machine

/-! ### The fault registers -/

/-- Settles O16: each value of the record is stored at the width of its register, and `raise` names no other field. -/
theorem raiseWritesExactlyTheFaultRegisters : Obligations.RaiseWritesExactlyTheFaultRegisters := by
  intro s f hrow hplane hipos hopos hval
  exact ⟨rfl, rfl, Nat.mod_eq_of_lt hrow, Nat.mod_eq_of_lt hplane, Nat.mod_eq_of_lt hipos,
    Nat.mod_eq_of_lt hopos, Nat.mod_eq_of_lt hval, rfl⟩

/-- Settles O14: in FAILED a host action that is a step is `Reset`, a read, or an ignored write. -/
theorem onlyResetLeavesFailed : Obligations.OnlyResetLeavesFailed := by
  intro s t hdec hs hstep
  obtain ⟨a, rest, hhost, ht⟩ := step_next hdec hstep
  rcases performAction_cases ht with ⟨rfl, -⟩ | ⟨v, rfl⟩ | ⟨-, rfl⟩ | ⟨r, v, -, -, hn, -⟩ |
    ⟨sp, b, v, -, -, hn, -⟩ | ⟨v, e, -, hn, -⟩ | ⟨v, i, -, hn, -⟩
  · exact .inl ⟨rest, hhost⟩
  · exact .inr rfl
  · exact .inr rfl
  all_goals exact absurd hs hn

/-! ### The table of contexts, taken apart -/

/-- Outside FAILED the invariant has no fault and a zero context, which is what the table gives (R24, R29). -/
theorem State.contextLegal_of_inv {s : State} (h : s.inv = true) (hs : s.status ≠ .failed) : s.contextLegal = true := by
  obtain ⟨-, ⟨hfault, hctx⟩, -⟩ := State.inv_iff.mp h
  rw [State.contextLegal, hfault.mpr hs]
  exact hctx hs

theorem State.underGeometry_eq {s : State} {g : Geometry} (hg : geometryOf s.cfgFmt = some g) (p : Geometry → Bool) :
    s.underGeometry p = p g := by
  rw [State.underGeometry, hg]

theorem StreamFault.atOpcode_cause {e : StreamFault} {len budget : Nat} (h : e.atOpcode len budget) :
    e.cause = .rleOverflow ∨ e.cause = .rleTruncated :=
  h.1.imp And.left And.left

/-- A state whose fault registers hold a fault at an opcode has the context of one (R121, R207). -/
theorem State.opcodeContext_of_atOpcode {s : State} {e : StreamFault} {len budget : Nat} (h : e.atOpcode len budget)
    (hcause : s.fault = e.cause) (hipos : s.faultIpos.toNat = e.ipos) (hopos : s.faultOpos.toNat = e.opos)
    (hval : s.faultVal.toNat = e.val) : s.opcodeContext budget len = true := by
  obtain ⟨hc, hi, ho, hpos, hmax⟩ := h
  have hover : e.cause = .rleOverflow ↔ budget < e.opos + e.val := by
    rcases hc with ⟨hc, hb⟩ | ⟨hc, hb⟩
    · simp [hc, hb]
    · simp [hc, hb]
  simp [State.opcodeContext, hcause, hipos, hopos, hval, hi, ho, hpos, hmax, hover]

theorem State.contextLegal_of_rowContext {s : State} (hc : s.fault = .rleOverflow ∨ s.fault = .rleTruncated)
    (h : s.rowContext = true) : s.contextLegal = true := by
  rcases hc with hc | hc <;> simp [State.contextLegal, hc, h]

theorem State.contextLegal_of_frameContext {s : State} {g : Geometry} (hg : geometryOf s.cfgFmt = some g)
    (h : s.frameContext g = true)
    (hc : ((s.fault = .rleOverflow ∨ s.fault = .rleTruncated) ∧ s.opcodeContext g.rowBytes s.strLen.toNat = true) ∨
      (s.fault = .rleTruncated ∧ s.faultIpos.toNat = s.strLen.toNat ∧ s.faultVal = 0)) : s.contextLegal = true := by
  rcases hc with ⟨hc | hc, hop⟩ | ⟨hc, hipos, hval⟩
  · simp [State.contextLegal, hc, State.underGeometry_eq hg, h, hop]
  · simp [State.contextLegal, hc, State.underGeometry_eq hg, h, hop]
  · simp [State.contextLegal, hc, State.underGeometry_eq hg, h, hipos, hval]

theorem State.contextLegal_of_trailingContext {s : State} {g : Geometry} (hg : geometryOf s.cfgFmt = some g)
    (hc : s.fault = .rleTrailing) (hstr : s.strLenLegal = true) (hrow : s.faultRow.toNat = g.h)
    (hplane : s.faultPlane = 0) (hipos : s.faultIpos.toNat < s.strLen.toNat) (hopos : s.faultOpos = 0)
    (hval : s.faultVal = 0) : s.contextLegal = true := by
  simp [State.contextLegal, hc, State.underGeometry_eq hg, hstr, hrow, hplane, hipos, hopos, hval]

/-! ### The faults taken before a body -/

/-- A byte that is no command code is 0x00 or 0x07 to 0xFF (R89). -/
theorem reserved_of_decodeCommand_error {v : Byte} {e : Reject} (h : decodeCommand v = .error e) :
    v.toNat = 0 ∨ 7 ≤ v.toNat := by
  unfold decodeCommand at h
  split at h
  case h_7 => simp only [imp_false] at *; omega
  all_goals cases h

theorem contextLegal_badCommand (s : State) {n : Nat} (hmax : n < 256) (hn : n = 0 ∨ 7 ≤ n) :
    (s.raisePlain .badCommand n).contextLegal = true := by
  have hval : n % 131072 = n := Nat.mod_eq_of_lt (by omega)
  rcases hn with rfl | hn
  · rfl
  · simp [State.raisePlain, State.contextLegal, hval, hn, Nat.le_of_lt_succ hmax]

theorem contextLegal_badConfig {s : State} (h : geometryOf s.cfgFmt = none) :
    (s.raisePlain .badConfig 3).contextLegal = true := by
  rcases geometryOf_cases s.cfgFmt with ⟨-, hg⟩ | ⟨-, hg⟩ | ⟨-, hg⟩ | ⟨hcfg, -⟩
  · simp [hg] at h
  · simp [hg] at h
  · simp [hg] at h
  · simp [State.raisePlain, State.contextLegal, hcfg]

@[simp] theorem State.raise_rowLenLegal (s : State) (f : FaultRecord) : (s.raise f).rowLenLegal = s.rowLenLegal := rfl
@[simp] theorem State.raise_crowLenLegal (s : State) (f : FaultRecord) : (s.raise f).crowLenLegal = s.crowLenLegal :=
  rfl
@[simp] theorem State.raise_strLenLegal (s : State) (f : FaultRecord) : (s.raise f).strLenLegal = s.strLenLegal := rfl

/-- BAD_LENGTH carries the value of a length register that is outside its range, and leaves the register (R205). -/
theorem contextLegal_badLength {s : State} {n : Nat}
    (h : (¬ s.rowLenLegal = true ∧ n = s.rowLen.toNat) ∨ (¬ s.crowLenLegal = true ∧ n = s.crowLen.toNat) ∨
      (¬ s.strLenLegal = true ∧ n = s.strLen.toNat)) : (s.raisePlain .badLength n).contextLegal = true := by
  have hval : n % 131072 = n := Nat.mod_eq_of_lt (by omega)
  simp only [Bool.not_eq_true, ← or_assoc] at h
  simp [State.raisePlain, State.contextLegal, hval, h]

/-! ### The faults of the bodies -/

/-- The three geometries fit the widths of the context registers (R29). -/
theorem geometryOf_bounds {cfg : BitVec 2} {g : Geometry} (h : geometryOf cfg = some g) :
    g.w ≤ 640 ∧ g.h ≤ 400 ∧ g.planes ≤ 4 ∧ g.rowBytes ≤ 80 :=
  geometryOf_forall (p := fun g => g.w ≤ 640 ∧ g.h ≤ 400 ∧ g.planes ≤ 4 ∧ g.rowBytes ≤ 80)
    (by decide) (by decide) (by decide) h

/-- The range check of PACK answers a pixel of the geometry and its value, which is at or above 2^P (R103). -/
theorem bounds_of_firstBadCell {g : Geometry} {m : Memory 4} {y x : Nat} {v : IndexCell}
    (h : firstBadCell g m = some (y, x, v)) : y < g.h ∧ x < g.w ∧ 2 ^ g.planes ≤ v.toNat := by
  obtain ⟨y', hy, hrow⟩ := List.exists_of_findSome?_eq_some h
  obtain ⟨x', hx, hcell⟩ := List.exists_of_findSome?_eq_some hrow
  rw [Option.ite_none_right_eq_some] at hcell
  obtain ⟨hbad, heq⟩ := hcell
  cases heq
  exact ⟨List.mem_range.mp hy, List.mem_range.mp hx, hbad⟩

theorem contextLegal_indexRange {s : State} {g : Geometry} (hg : geometryOf s.cfgFmt = some g) {y x : Nat}
    {v : IndexCell} (hy : y < g.h) (hx : x < g.w) (hv : 2 ^ g.planes ≤ v.toNat) :
    (s.raise ⟨.indexRange, y, 0, x, 0, v.toNat⟩).contextLegal = true := by
  obtain ⟨hw, hh, -, -⟩ := geometryOf_bounds hg
  have hmax := v.isLt
  obtain ⟨-, -, hrow, -, hipos, -, hval, -⟩ := raiseWritesExactlyTheFaultRegisters s ⟨.indexRange, y, 0, x, 0, v.toNat⟩
    (by simp only; omega) (by simp) (by simp only; omega) (by simp) (by simp only; omega)
  rw [State.contextLegal, State.raise_fault]
  simp only [State.underGeometry_eq (s := s.raise _) hg, hrow, hipos, hval]
  simp [hy, hx, hv, Nat.le_of_lt_succ hmax]

/-- A fault of the opcode step in DECROW, whose row and plane are 0 (R127, R207). -/
theorem contextLegal_failRow {s : State} {e : StreamFault} (hrow : s.rowLenLegal = true) (hcrow : s.crowLenLegal = true)
    (he : e.atOpcode s.crowLen.toNat s.rowLen.toNat) : (failRow e s).contextLegal = true := by
  have ⟨_, hipos, hopos, _, hval⟩ := he
  obtain ⟨-, -, -, -, hi, ho, hv, -⟩ := raiseWritesExactlyTheFaultRegisters s.forgetRow
    ⟨e.cause, 0, 0, e.ipos, e.opos, e.val⟩ (by simp) (by simp) (by simp only; omega) (by simp only; omega)
    (by simp only; omega)
  have hctx : (failRow e s).opcodeContext s.rowLen.toNat s.crowLen.toNat = true :=
    State.opcodeContext_of_atOpcode he rfl hi ho hv
  refine State.contextLegal_of_rowContext (StreamFault.atOpcode_cause he) ?_
  simp only [State.rowContext, Bool.and_eq_true, decide_eq_true_eq]
  exact ⟨⟨⟨⟨hrow, hcrow⟩, rfl⟩, rfl⟩, hctx⟩

/-- A fault of DECFRAME inside row-plane `q`, at an opcode or between opcodes (R167, R170, R207). -/
theorem contextLegal_failFrame_rowFault {s : State} {g : Geometry} {q : Nat} {e : StreamFault}
    (hg : geometryOf s.cfgFmt = some g) (hstr : s.strLenLegal = true) (hq : q < g.rowPlanes) (hopos : e.opos < g.rowBytes)
    (he : e.atOpcode s.strLen.toNat g.rowBytes ∨
      (e.cause = .rleTruncated ∧ e.ipos = s.strLen.toNat ∧ e.val = 0)) :
    (failFrame (rowFault g q e) s).contextLegal = true := by
  obtain ⟨-, hh, hP, hB⟩ := geometryOf_bounds hg
  have hy : g.scanlineOf q < g.h := Geometry.scanlineOf_lt hq
  have hz : g.planeOf q < g.planes := Geometry.planeOf_lt g q
  have hipos : e.ipos < 2 ^ 17 := by
    rcases he with ⟨-, hi, -⟩ | ⟨-, hi, -⟩ <;> omega
  have hval : e.val < 2 ^ 17 := by
    rcases he with ⟨-, -, -, -, hv⟩ | ⟨-, -, hv⟩ <;> omega
  obtain ⟨-, -, hr, hp, hi, ho, hv, -⟩ := raiseWritesExactlyTheFaultRegisters s.forgetFrame (rowFault g q e)
    (by simp only [rowFault]; omega) (by simp only [rowFault]; omega) hipos (by simp only [rowFault]; omega) hval
  refine State.contextLegal_of_frameContext (s := failFrame (rowFault g q e) s) hg ?_ ?_
  · simp only [State.frameContext, Bool.and_eq_true, decide_eq_true_eq]
    exact ⟨⟨⟨hstr, hr.trans_lt hy⟩, hp.trans_lt hz⟩, ho.trans_lt hopos⟩
  · rcases he with hop | ⟨hc, hend, h0⟩
    · exact .inl ⟨StreamFault.atOpcode_cause hop, State.opcodeContext_of_atOpcode hop rfl hi ho hv⟩
    · exact .inr ⟨hc, hi.trans hend, BitVec.eq_of_toNat_eq (hv.trans h0)⟩

/-- Input left after the last row-plane (R171, R207). -/
theorem contextLegal_failFrame_trailingFault {s : State} {g : Geometry} {ip : Nat} (hg : geometryOf s.cfgFmt = some g)
    (hstr : s.strLenLegal = true) (hip : ip < s.strLen.toNat) :
    (failFrame (trailingFault g ip) s).contextLegal = true := by
  obtain ⟨-, hh, -, -⟩ := geometryOf_bounds hg
  obtain ⟨-, -, hr, -, hi, -, -, -⟩ := raiseWritesExactlyTheFaultRegisters s.forgetFrame (trailingFault g ip)
    (by simp only [trailingFault]; omega) (by simp [trailingFault]) (by simp only [trailingFault]; omega)
    (by simp [trailingFault]) (by simp [trailingFault])
  exact State.contextLegal_of_trailingContext (s := failFrame (trailingFault g ip) s) hg rfl hstr hr rfl
    (hi.trans_lt hip) rfl rfl

/-! ### Every command -/

/-- If `t` is FAILED, its context is legal; outside FAILED the invariant says what the context is. -/
def LegalWhenFailed (t : State) : Prop := t.status = .failed → t.contextLegal = true

theorem legalWhenFailed_of_ne {t : State} (h : t.status ≠ .failed) : LegalWhenFailed t := fun ht => absurd ht h

theorem legalWhenFailed_markDone (s : State) : LegalWhenFailed s.markDone := legalWhenFailed_of_ne (by simp)

theorem legalWhenFailed_packBody {g : Geometry} {s : State} (hg : geometryOf s.cfgFmt = some g) :
    LegalWhenFailed (packBody g s) := by
  cases h : firstBadCell g s.idx with
  | none =>
    rw [packBody_good h]
    exact legalWhenFailed_markDone _
  | some bad =>
    obtain ⟨y, x, v⟩ := bad
    obtain ⟨hy, hx, hv⟩ := bounds_of_firstBadCell h
    rw [packBody_bad h]
    exact fun _ => contextLegal_indexRange hg hy hx hv

theorem legalWhenFailed_encrowBody (s : State) : LegalWhenFailed (encrowBody s) := by
  by_cases hrow : s.rowLenLegal = true
  · rw [encrowBody_legal hrow]
    exact legalWhenFailed_markDone _
  · rw [encrowBody_badRowLen hrow]
    exact fun _ => contextLegal_badLength (.inl ⟨hrow, rfl⟩)

theorem legalWhenFailed_decrowBody (s : State) : LegalWhenFailed (decrowBody s) := by
  by_cases hrow : s.rowLenLegal = true
  · by_cases hcrow : s.crowLenLegal = true
    · rw [decrowBody_legal hrow hcrow]
      cases h : rleDecode s.codedRow s.rowLen.toNat with
      | ok out => exact legalWhenFailed_markDone _
      | error e =>
        have he := rleDecodeFrom_error (Nat.zero_le _) h
        rw [State.codedRow, Memory.length_readRange] at he
        exact fun _ => contextLegal_failRow hrow hcrow he
    · rw [decrowBody_badCrowLen hrow hcrow]
      exact fun _ => contextLegal_badLength (.inr (.inl ⟨hcrow, rfl⟩))
  · rw [decrowBody_badRowLen hrow]
    exact fun _ => contextLegal_badLength (.inl ⟨hrow, rfl⟩)

theorem legalWhenFailed_decframeBody {g : Geometry} {s : State} (hg : geometryOf s.cfgFmt = some g) :
    LegalWhenFailed (decframeBody g s) := by
  by_cases hstr : s.strLenLegal = true
  · rw [decframeBody_legal hstr]
    cases h : decodeFrame g s.streamBytes with
    | ok d => exact legalWhenFailed_markDone _
    | error f =>
      have hlen : s.streamBytes.length = s.strLen.toNat := Memory.length_readRange ..
      rcases decodeFrame_error h with ⟨q, e, hq, rfl, hopos, he⟩ | ⟨ip, hip, rfl⟩
      · exact fun _ => contextLegal_failFrame_rowFault hg hstr hq hopos (hlen ▸ he)
      · exact fun _ => contextLegal_failFrame_trailingFault hg hstr (hlen ▸ hip)
  · rw [decframeBody_badStrLen hstr]
    exact fun _ => contextLegal_badLength (.inr (.inr ⟨hstr, rfl⟩))

theorem legalWhenFailed_issueRow {body : State → State} {s : State} (hs : s.status ≠ .failed)
    (hbody : LegalWhenFailed (body s)) : LegalWhenFailed (issueRow body s) := by
  rwa [issueRow_ready hs]

theorem legalWhenFailed_issueFrame {body : Geometry → State → State} {s : State} (hs : s.status ≠ .failed)
    (hbody : ∀ {g}, geometryOf s.cfgFmt = some g → LegalWhenFailed (body g s)) :
    LegalWhenFailed (issueFrame body s) := by
  cases hg : geometryOf s.cfgFmt with
  | none =>
    rw [issueFrame_reserved hs hg]
    exact fun _ => contextLegal_badConfig hg
  | some g =>
    rw [issueFrame_ready hs hg]
    exact hbody hg

/-- Every command that ends FAILED leaves a legal context. -/
theorem legalWhenFailed_exec_command {i : Instr} (hi : i.isStream = false) {s t : State} (hs : s.status ≠ .failed)
    (ht : exec i s = .next t) : LegalWhenFailed t := by
  cases i with
  | copy lits => cases hi
  | fill n val => cases hi
  | pack => cases ht; exact legalWhenFailed_issueFrame hs legalWhenFailed_packBody
  | unpack => cases ht; exact legalWhenFailed_issueFrame hs fun _ => legalWhenFailed_markDone _
  | encrow => cases ht; exact legalWhenFailed_issueRow hs (legalWhenFailed_encrowBody s)
  | decrow => cases ht; exact legalWhenFailed_issueRow hs (legalWhenFailed_decrowBody s)
  | encframe => cases ht; exact legalWhenFailed_issueFrame hs fun _ => legalWhenFailed_markDone _
  | decframe => cases ht; exact legalWhenFailed_issueFrame hs legalWhenFailed_decframeBody

/-! ### Every step -/

/-- A host action that leads to FAILED leaves the context of the fault it takes, or the one that stood there. -/
theorem legalWhenFailed_performAction {a : HostAction} {s t : State} (hlegal : s.contextLegal = true)
    (ht : performAction exec a s = .next t) : LegalWhenFailed t := by
  rcases performAction_cases ht with ⟨-, rfl⟩ | ⟨v, rfl⟩ | ⟨-, rfl⟩ | ⟨r, v, -, -, hs, rfl⟩ |
    ⟨sp, b, v, -, -, hs, rfl⟩ | ⟨v, e, -, -, hdec, rfl⟩ | ⟨v, i, -, hs, hdec, hexec⟩
  · exact legalWhenFailed_of_ne (by simp)
  · exact fun _ => hlegal
  · exact fun _ => hlegal
  · exact legalWhenFailed_of_ne (by simpa using hs)
  · exact legalWhenFailed_of_ne (by simpa using hs)
  · exact fun _ => contextLegal_badCommand s (commandByte v).isLt (reserved_of_decodeCommand_error hdec)
  · exact legalWhenFailed_exec_command (decodeCommand_isStream hdec) hs hexec

/-- Settles O60: a step to FAILED leaves a legal context, and after every other step the invariant gives the zero one. -/
theorem everyStepKeepsTheFaultContextLegal : Obligations.EveryStepKeepsTheFaultContextLegal := by
  intro s t hinv hlegal hstep
  by_cases ht : t.status = .failed
  · obtain ⟨-, -, hdec⟩ := State.inv_iff.mp hinv
    obtain ⟨a, rest, -, hact⟩ := step_next hdec hstep
    exact legalWhenFailed_performAction (s := s.takeAction rest) hlegal hact ht
  · exact State.contextLegal_of_inv (everyStepKeepsTheInvariant s t hinv hstep) ht

end Sys2Proof.Machine
end

section
/-! Reset: what the action does (70_reset_and_hazards.md R230) and the state an execution starts from (R231). -/

namespace Sys2Proof.Machine

/-! ### The action -/

/-- `Reset` is a step in every STATUS (R230). -/
theorem performAction_reset (s : State) : performAction exec .reset s = .next s.resetRegisters := rfl

/-- Settles O8: the step takes the action off the queue and then resets the registers, and neither names a memory, the
decoder or the counter of draws. -/
theorem resetActionClearsRegistersAndKeepsMemories : Obligations.ResetActionClearsRegistersAndKeepsMemories := by
  intro s rest hdec hhost
  have hstep : step s = .next (s.takeAction rest).resetRegisters :=
    (step_between hdec hhost).trans (performAction_reset _)
  exact ⟨_, hstep, by simp [hdec]⟩

/-! ### The initial state -/

/-- Every register that holds a value holds 0, IDLE or NONE, whose codes are 0, and CMD reads 0 in any state. -/
theorem State.reset_readReg {r : Nat} (hr : r ≤ 12) : State.reset.readReg r = some 0 := by
  interval_cases r <;> rfl

/-- Settles O9: the five memories are those of the draws 0 to 4, in which no cell has been written. -/
theorem initialStateIsZeroRegistersAndUnwrittenMemories :
    Obligations.InitialStateIsZeroRegistersAndUnwrittenMemories :=
  ⟨fun _ => State.reset_readReg, rfl, fun a =>
    ⟨Memory.written_unspecified 0 a, Memory.written_unspecified 1 a, Memory.written_unspecified 2 a,
      Memory.written_unspecified 3 a, Memory.written_unspecified 4 a⟩⟩

end Sys2Proof.Machine
end
